-- ==== Sys2Proof/Word.lean ====
section
/-! DEFINITION. The word type of FFCORE (00_scope.md R9, R10) and its byte lanes' type (20_memory.md R63). -/

namespace Sys2Proof

/-- A `u32`: the width of every operand, result and register (R9, R10). -/
abbrev Word := BitVec 32

/-- What one byte lane of the host bus carries (R63). -/
abbrev Byte := BitVec 8

end Sys2Proof
end

