-- ==== Sys2Proof/Config.lean ====
section
/-! DEFINITION. What an implementation or the platform fixes (00_scope.md R9) and the free values the spec leaves open
(20_memory.md R73, 70_reset_and_hazards.md R203). An `opaque` constant has no body here: nothing can be proved of it. -/

namespace Sys2Proof

/-- The OPEN parameters of R9: `BASE`, the bus address of the window, and `N_OPMEM`, the number of OPMEM words. -/
structure Params where
  base   : Nat
  nOpmem : Nat
  deriving DecidableEq, Repr

/-- Size in bytes of the host window (R60). -/
def Params.windowBytes (p : Params) : Nat := 0x1000 + 4 * p.nOpmem

/-- The window size rounded up to a power of two (R9). -/
def Params.windowSpan (p : Params) : Nat := 2 ^ (Nat.log2 (p.windowBytes - 1) + 1)

/-- Free: which legal `N_OPMEM` the implementation has (R9, D7). -/
opaque Config.opmemPick : Nat

/-- Free: which aligned window the platform assigns (R9, D36). -/
opaque Config.basePick : Nat

/-- The parameters after a power-up: any `N_OPMEM` from 1 to 2^20 and any aligned `BASE` (R9).
DESIGN CHOICE, log 2: a free value within the spec's bounds. -/
def Config.params : Params :=
  let n := 2 ^ 20 - Config.opmemPick % 2 ^ 20
  { base := Config.basePick * Params.windowSpan { base := 0, nOpmem := n }, nOpmem := n }

/-- Free: the unspecified value of OPMEM word `k` that arose under the tag `tag` (R73: "each word as an unknown value";
R203). One tag stands for one moment at which words became unspecified; the value is stable until the word is written. -/
opaque Config.freeWord (tag k : Nat) : Word

end Sys2Proof
end

