-- ==== Sys2Proof/Syntax.lean ====
section
/-! DEFINITION. The commands (30_encoding.md R81, one constructor a row of spec/opcode_table.json), the fields of the command
word (R80), the registers of the window (10_state.md section 2) and the command-script language (R87, R88). -/

namespace Sys2Proof

/-- The eight commands of R81. No command word carries an operand (R85): operands stand in the snapshot's ARG values (R86). -/
inductive Instr where
  | reduce
  | fmul
  | fadd
  | eval
  | begin
  | fold
  | curres
  | gen
  deriving DecidableEq, Repr

/-- The two fields of the command word (R80). -/
structure CommandWord where
  rsvd : BitVec 28
  opc  : BitVec 4
  deriving DecidableEq, Repr

/-- The registers of the window (10_state.md section 2). -/
inductive Reg where
  | id | ctrl | status | cmd
  | arg0 | arg1 | arg2 | arg3 | arg4 | arg5
  | result | sacc | sx | sm | draws | opmemWords
  deriving DecidableEq, Repr

/-- `<target>` of a script operation (R87): a register by name, or `OPMEM[k]`. -/
inductive Target where
  | reg (r : Reg)
  | opmem (k : Nat)
  deriving DecidableEq, Repr

/-- The operations of a command script (R87) and the polling loop `WAIT` (R88). The name a script gives to a value read is the
host's own; the value itself is FFCORE's reply. -/
inductive ScriptOp where
  | wr (t : Target) (value : Word)
  | rd (t : Target)
  | wait
  deriving DecidableEq, Repr

/-- The pseudo-instructions of R88 without the `.NW` suffix. -/
inductive Pseudo where
  | wait
  | reduce (hi lo d : Word)
  | fmul (a b m : Word)
  | fadd (a b m : Word)
  | eval (len cb x m : Word)
  | begin (x m : Word)
  | fold (c : Word)
  | curres
  | gen (fs c d ib sb kb : Word)
  | srst
  | clrst
  deriving DecidableEq, Repr

end Sys2Proof
end

