-- ==== Sys2Proof/WellFormed.lean ====
section
/-! DEFINITION. The checks on syntax and parameters: legal command words (30_encoding.md R83, R84), legal parameters
(00_scope.md R9), and script targets that exist (R87, 20_memory.md R60). -/

namespace Sys2Proof

/-- R83: RSVD must be 0. -/
def CommandWord.reservedClear (c : CommandWord) : Bool := c.rsvd == 0

/-- R81, R84: OPC 0x1 to 0x8 are assigned; 0x0 and 0x9 to 0xF are not. -/
def CommandWord.opcAssigned (c : CommandWord) : Bool := 1 ≤ c.opc.toNat && c.opc.toNat ≤ 8

/-- A legal command word (R84). -/
def CommandWord.wellFormed (c : CommandWord) : Bool := c.reservedClear && c.opcAssigned

/-- R9: `1 <= N_OPMEM <= 2^20`, and `BASE` aligned to the window size rounded up to a power of two. -/
abbrev Params.WellFormed (p : Params) : Prop :=
  1 ≤ p.nOpmem ∧ p.nOpmem ≤ 2 ^ 20 ∧ p.base % p.windowSpan = 0

/-- A script target names a register, or an OPMEM word that exists (R60, R87). -/
def Target.wellFormed (p : Params) : Target → Bool
  | .reg _   => true
  | .opmem k => k < p.nOpmem

def ScriptOp.wellFormed (p : Params) : ScriptOp → Bool
  | .wr t _ => t.wellFormed p
  | .rd t   => t.wellFormed p
  | .wait   => true

end Sys2Proof
end

