-- ==== Sys2Proof/Decode.lean ====
section
/-! DEFINITION. Decoding of the command word (30_encoding.md R80 to R84, R92), total on every word and every byte string and
rejecting by name, and the encoder. The rows are those of R81 and spec/opcode_table.json. -/

namespace Sys2Proof

/-- Why a command word is illegal (R84), or why bytes are not a command word at all (R80). -/
inductive Illegal where
  /-- some bit of RSVD is set (R83) -/
  | reservedBitSet
  /-- OPC is 0x0 or 0x9 to 0xF (R84) -/
  | opcodeUnassigned
  /-- not the four bytes of one 32-bit word (R80: every command has this length) -/
  | notOneWord
  deriving DecidableEq, Repr

/-- R80: bits 31:4 are RSVD, bits 3:0 are OPC. -/
def CommandWord.ofWord (w : Word) : CommandWord :=
  { rsvd := w.extractLsb' 4 28, opc := w.extractLsb' 0 4 }

def CommandWord.toWord (c : CommandWord) : Word := c.rsvd ++ c.opc

/-- OPC of each command (R81). -/
def Instr.opc : Instr → BitVec 4
  | .reduce => 0x1
  | .fmul   => 0x2
  | .fadd   => 0x3
  | .eval   => 0x4
  | .begin  => 0x5
  | .fold   => 0x6
  | .curres => 0x7
  | .gen    => 0x8

/-- The command an OPC value names, if any (R81, R84). -/
def opcCommand (opc : BitVec 4) : Option Instr :=
  match opc.toNat with
  | 0x1 => some .reduce
  | 0x2 => some .fmul
  | 0x3 => some .fadd
  | 0x4 => some .eval
  | 0x5 => some .begin
  | 0x6 => some .fold
  | 0x7 => some .curres
  | 0x8 => some .gen
  | _   => none

/-- Decode of a command word (R92): illegal exactly where R84 says. -/
def decode (w : Word) : Except Illegal Instr :=
  let c := CommandWord.ofWord w
  if c.reservedClear then
    match opcCommand c.opc with
    | some i => .ok i
    | none   => .error .opcodeUnassigned
  else .error .reservedBitSet

/-- Byte lane `i` of a word (R63: bits `[8*i+7 : 8*i]`, little-endian). -/
def byteLane (w : Word) (i : Nat) : Byte := w.extractLsb' (8 * i) 8

/-- The word four byte lanes carry (R63). -/
def ofLanes (b0 b1 b2 b3 : Byte) : Word := b3 ++ b2 ++ b1 ++ b0

/-- Decode of the byte lanes of a command word, lowest lane first (R63, R80). -/
def decodeBytes : List Byte → Except Illegal Instr
  | [b0, b1, b2, b3] => decode (ofLanes b0 b1 b2 b3)
  | _                => .error .notOneWord

/-- The command word of a command: its OPC with RSVD 0 (R80, R81, R83). -/
def encode (i : Instr) : Word := CommandWord.toWord { rsvd := 0, opc := i.opc }

/-- One row of spec/opcode_table.json. -/
structure OpcodeRow where
  instr : Instr
  mask  : Word
  pattern : Word
  deriving DecidableEq, Repr

/-- spec/opcode_table.json, row by row: mask, match. -/
def opcodeTable : List OpcodeRow :=
  [ ⟨.reduce, 0xFFFFFFFF, 0x00000001⟩, ⟨.fmul,  0xFFFFFFFF, 0x00000002⟩,
    ⟨.fadd,   0xFFFFFFFF, 0x00000003⟩, ⟨.eval,  0xFFFFFFFF, 0x00000004⟩,
    ⟨.begin,  0xFFFFFFFF, 0x00000005⟩, ⟨.fold,  0xFFFFFFFF, 0x00000006⟩,
    ⟨.curres, 0xFFFFFFFF, 0x00000007⟩, ⟨.gen,   0xFFFFFFFF, 0x00000008⟩ ]

/-- The command word that `nbits` table bits `w` stand for, every bit above them 0. -/
def tableWord (nbits w : Nat) : Word := BitVec.ofNat 32 (w % 2 ^ nbits)

/-- What the decoder reads from the table's bits, laid out on the byte lanes (R63). -/
def decodeTableWord (nbits w : Nat) : Option Instr :=
  let v := tableWord nbits w
  match decodeBytes [byteLane v 0, byteLane v 1, byteLane v 2, byteLane v 3] with
  | .ok i    => some i
  | .error _ => none

end Sys2Proof
end

