-- ==== Sys2Proof/Machine/State.lean ====
section
/-! DEFINITION. The state of FFCORE: the record of 10_state.md R20, whole, with the reset values of R44, and the fields the model
adds (INVENTORY.md, ## State). Plain data. -/

namespace Sys2Proof.Machine

/-- States of the streaming evaluator (10_state.md R32, 42_poly_eval.md R135). -/
inductive SState where
  | uninit
  | begun
  | folded
  deriving DecidableEq, Repr

/-- The errors of 60_exceptions.md R170. -/
inductive ErrorCode where
  | divisionByZero
  | notInitialized
  | invalidArgument
  | illegalCommand
  | addressRange
  deriving DecidableEq, Repr

/-- The six operand registers (R35), live or in a snapshot (R42). -/
structure Args where
  arg0 : Word
  arg1 : Word
  arg2 : Word
  arg3 : Word
  arg4 : Word
  arg5 : Word
  deriving DecidableEq, Repr

/-- The snapshot of an issued command (R42, R90): `{ cmd, arg, shift }`. -/
structure Pending where
  cmd   : Word
  args  : Args
  shift : BitVec 5
  deriving DecidableEq, Repr

/-- What an OPMEM word holds: a value something wrote, or the unspecified value that arose under a tag (R73, R203). -/
inductive Content where
  | known (w : Word)
  | free (tag : Nat)
  deriving DecidableEq, Repr

/-- OPMEM (20_memory.md R64), a list of (word index, content): the word is the smallest unit anything addresses (R62, R64), so
the cells are words and not bytes (log 3). A word not listed holds `.free epoch`, the unspecified value of the last hardware
reset (R73). Canonical form: `Memory.wf`. -/
structure Memory where
  epoch : Nat
  cells : List (Nat × Content)
  deriving DecidableEq, Repr

/-- One host bus access, or one beat of a burst (R62): byte address, size in bits, direction. The data of a write is its 32-bit
word; a write of another size is refused whatever its data. -/
inductive Direction where
  | read
  | write (w : Word)
  deriving DecidableEq, Repr

structure Access where
  addr : Nat
  bits : Nat
  dir  : Direction
  deriving DecidableEq, Repr

/-- What happens next, as the outside world arranges it (R4, R69, R151, R200, R212). -/
inductive Input where
  /-- time passes: the Engine's slot, in which a pending command may complete (R89, R212) -/
  | engine
  /-- a host access arrives (R69) -/
  | access (a : Access)
  /-- a burst arrives, with its beats in order (R62) -/
  | burst (beats : List Access)
  /-- the host polls STATUS until BUSY is 0 (R88 `WAIT`) -/
  | wait
  /-- the Sampler offers the word `w` for its exchange number `n` (R151, R204) -/
  | sample (n : Nat) (w : Word)
  /-- the platform asserts the hardware reset (R200) -/
  | hardReset
  deriving DecidableEq, Repr

/-- FFCORE's answer to the last host access. -/
inductive Reply where
  /-- no access yet since reset -/
  | none
  /-- a read's data (R67) -/
  | data (w : Word)
  /-- a write was accepted (R67) -/
  | accepted
  /-- refused: bus error, no data, no state change (R62, R66) -/
  | busError
  /-- the address is outside the window: FFCORE does not decode it (R61) -/
  | notDecoded
  deriving DecidableEq, Repr

/-- The whole state: R20's record, then the model's own fields. -/
structure State where
  ctrlIe    : Bool
  ctrlShift : BitVec 5
  busy      : Bool
  done      : Bool
  err       : Bool
  ovr       : Bool
  errcode   : BitVec 4
  sstate    : SState
  args      : Args
  result    : Word
  sacc      : Word
  sx        : Word
  sm        : Word
  draws     : Word
  opmem     : Memory
  pending   : Option Pending
  -- the model's own (INVENTORY.md, ## State)
  params    : Params
  drawn     : List Word
  exchange  : Nat
  freeTag   : Nat
  inputs    : List Input
  reply     : Reply
  deriving DecidableEq, Repr

/-- Why the machine stops with a fault: never. Every command word, every operand and every host access of FFCORE has an outcome
after which the machine goes on (R84, R96, R176, R179), so no constructor is raised by anyone; safe (log 9). -/
inductive Fault where
  deriving DecidableEq, Repr

/-- Why an instruction has no meaning. -/
inductive Refusal where
  /-- raised by an arm of exec whose command has no meaning yet; none is left; safe -/
  | notModelled (mnemonic : String)
  deriving DecidableEq, Repr

/-- Reset values of R44, for given parameters, with every OPMEM word unspecified under the tag `tag` (R73). -/
def State.resetWith (p : Params) (tag : Nat) : State :=
  { ctrlIe := false, ctrlShift := 0, busy := false, done := false, err := false, ovr := false, errcode := 0
    sstate := .uninit, args := ⟨0, 0, 0, 0, 0, 0⟩, result := 0, sacc := 0, sx := 0, sm := 0, draws := 0
    opmem := { epoch := tag, cells := [] }, pending := none
    params := p, drawn := [], exchange := 0, freeTag := tag + 1, inputs := [], reply := .none }

/-- The machine right after a hardware reset (R44, R201): idle, waiting for host accesses (R200). -/
def State.reset : State := State.resetWith Config.params 0

end Sys2Proof.Machine
end

