-- ==== Sys2Proof/Machine/Flags.lean ====
section
/-! DEFINITION. Bit fields: STATUS (10_state.md R26 to R32), CTRL (R22 to R25), the error codes (60_exceptions.md R170), the
interrupt output (R181), and the write-one-to-clear rule. -/

namespace Sys2Proof.Machine

/-- Codes of R170, as STATUS.ERRCODE holds them (R31). -/
def ErrorCode.code : ErrorCode → BitVec 4
  | .divisionByZero  => 1
  | .notInitialized  => 2
  | .invalidArgument => 3
  | .illegalCommand  => 4
  | .addressRange    => 5

/-- STATUS.SSTATE (R32); 3 is never produced. -/
def SState.code : SState → BitVec 2
  | .uninit => 0
  | .begun  => 1
  | .folded => 2

/-- STATUS as read (R26): SSTATE in 9:8, ERRCODE in 7:4, OVR 3, ERR 2, DONE 1, BUSY 0, the rest 0. -/
def State.statusWord (s : State) : Word :=
  0#22 ++ s.sstate.code ++ s.errcode ++ BitVec.ofBool s.ovr ++ BitVec.ofBool s.err ++ BitVec.ofBool s.done
    ++ BitVec.ofBool s.busy

/-- CTRL as read (R22): SHIFT in 12:8, IE in 1, SRST and the reserved bits 0. -/
def State.ctrlWord (s : State) : Word :=
  0#19 ++ s.ctrlShift ++ 0#6 ++ BitVec.ofBool s.ctrlIe ++ 0#1

/-- CTRL.SRST of a written value (R23). -/
def srstBit (w : Word) : Bool := w.getLsbD 0

/-- CTRL.IE of a written value (R22). -/
def ieBit (w : Word) : Bool := w.getLsbD 1

/-- CTRL.SHIFT of a written value (R22). -/
def shiftField (w : Word) : BitVec 5 := w.extractLsb' 8 5

/-- W1C (R26): writing 1 clears, writing 0 has no effect. `bit` is the flag's place in STATUS. -/
def w1c (flag : Bool) (w : Word) (bit : Nat) : Bool := flag && !w.getLsbD bit

/-- The interrupt output, a level: `IRQ = ctrl_ie AND done` (R181). -/
def State.irq (s : State) : Bool := s.ctrlIe && s.done

end Sys2Proof.Machine
end

