-- ==== Sys2Proof/Machine/Operands.lean ====
section
/-! DEFINITION. Operand registers per command (30_encoding.md R86), taken from the issue snapshot (R42, R92), and the OPMEM regions
they name (20_memory.md R65). -/

namespace Sys2Proof.Machine

structure ReduceOps where
  high    : Word
  low     : Word
  divisor : Word
  deriving DecidableEq, Repr

/-- Operands of FMUL and of FADD. -/
structure FieldOps where
  a : Word
  b : Word
  m : Word
  deriving DecidableEq, Repr

structure EvalOps where
  length : Word
  cbase  : Word
  x      : Word
  m      : Word
  deriving DecidableEq, Repr

structure BeginOps where
  x : Word
  m : Word
  deriving DecidableEq, Repr

structure GenOps where
  fieldSize : Word
  c         : Word
  degree    : Word
  idbase    : Word
  shbase    : Word
  scbase    : Word
  shift     : BitVec 5
  deriving DecidableEq, Repr

def Pending.reduceOps (p : Pending) : ReduceOps := ⟨p.args.arg0, p.args.arg1, p.args.arg2⟩

def Pending.fieldOps (p : Pending) : FieldOps := ⟨p.args.arg0, p.args.arg1, p.args.arg2⟩

def Pending.evalOps (p : Pending) : EvalOps := ⟨p.args.arg0, p.args.arg1, p.args.arg2, p.args.arg3⟩

def Pending.beginOps (p : Pending) : BeginOps := ⟨p.args.arg0, p.args.arg1⟩

/-- FOLD's `coefficient`. -/
def Pending.foldOp (p : Pending) : Word := p.args.arg0

/-- GEN's operands and, beside them, the snapshot's SHIFT (R92). -/
def Pending.genOps (p : Pending) : GenOps :=
  ⟨p.args.arg0, p.args.arg1, p.args.arg2, p.args.arg3, p.args.arg4, p.args.arg5, p.shift⟩

/-- A region of OPMEM: word index and word count, as unbounded naturals (R65). -/
structure Region where
  base : Nat
  len  : Nat
  deriving DecidableEq, Repr

/-- R65: in range when empty or when it ends at or below N_OPMEM; no wrap-around. -/
def Region.inRange (r : Region) (n : Nat) : Bool := r.len == 0 || r.base + r.len ≤ n

/-- R65: both nonempty and each begins before the other ends. -/
def Region.overlaps (a b : Region) : Bool :=
  a.len != 0 && b.len != 0 && a.base < b.base + b.len && b.base < a.base + a.len

/-- The word indices of a region. -/
def Region.Holds (r : Region) (k : Nat) : Prop := r.base ≤ k ∧ k < r.base + r.len

/-- The words of a region that exist. -/
def Region.existing (r : Region) (n : Nat) : List Nat :=
  (List.range (min r.len (n - r.base))).map (r.base + ·)

/-- EVAL's coefficient sequence (R132). -/
def EvalOps.region (e : EvalOps) : Region := ⟨e.cbase.toNat, e.length.toNat⟩

/-- GEN's regions I, H and S (R152). -/
def GenOps.identities (g : GenOps) : Region := ⟨g.idbase.toNat, g.c.toNat⟩

def GenOps.shares (g : GenOps) : Region := ⟨g.shbase.toNat, g.c.toNat⟩

def GenOps.scratch (g : GenOps) : Region := ⟨g.scbase.toNat, g.degree.toNat⟩

end Sys2Proof.Machine
end

