-- ==== Sys2Proof/Machine/Ops.lean ====
section
/-! DEFINITION. The named operations: OPMEM, the field updates of the state, issue and completion of a command (30_encoding.md R90,
R94), FFCORE's whole "exception entry", the failed completion (R95, R179), and the return from it, the W1C write (R180), and
the resets (70_reset_and_hazards.md R201 to R203). -/

namespace Sys2Proof.Machine

/-! ### OPMEM (20_memory.md R64, R73) -/

/-- Canonical form: indices strictly rising, and no entry equal to what an unlisted word holds. -/
abbrev Memory.wf (m : Memory) : Prop :=
  m.cells.Pairwise (fun a b => a.1 < b.1) ∧ ∀ e ∈ m.cells, e.2 ≠ Content.free m.epoch

/-- The entry of word `k` in a cell list. -/
def lookupCell : List (Nat × Content) → Nat → Option Content
  | [], _ => none
  | (a, c) :: rest, k => if a = k then some c else lookupCell rest k

/-- Put an entry in its place in a rising cell list. -/
def putCell (k : Nat) (c : Content) : List (Nat × Content) → List (Nat × Content)
  | [] => [(k, c)]
  | (a, d) :: rest =>
    if k < a then (k, c) :: (a, d) :: rest
    else if k = a then (k, c) :: rest
    else (a, d) :: putCell k c rest

/-- What word `k` holds; an unlisted word holds the last hardware reset's unspecified value (R73). -/
def Memory.contentAt (m : Memory) (k : Nat) : Content := (lookupCell m.cells k).getD (.free m.epoch)

/-- Word `k` holds `c` from now on; the canonical form is kept. -/
def Memory.set (m : Memory) (k : Nat) (c : Content) : Memory :=
  { m with cells :=
      if c = .free m.epoch then m.cells.filter (fun e => e.1 != k) else putCell k c m.cells }

/-- The value of a content at index `k`: the word written, or the free value (R73). -/
def Content.value (k : Nat) : Content → Word
  | .known w  => w
  | .free tag => Config.freeWord tag k

/-- `OpMemRead(k)` (R64). Called only for `k < N_OPMEM`. -/
def Memory.read (m : Memory) (k : Nat) : Word := (m.contentAt k).value k

/-- `OpMemWrite(k, v)` (R64). Called only for `k < N_OPMEM`. -/
def Memory.write (m : Memory) (k : Nat) (v : Word) : Memory := m.set k (.known v)

/-- The words of a region in index order. -/
def Memory.readRegion (m : Memory) (r : Region) : List Word :=
  (List.range r.len).map (fun j => m.read (r.base + j))

/-- Every listed word becomes unspecified under the tag (R203). -/
def Memory.release (m : Memory) (tag : Nat) (ks : List Nat) : Memory :=
  ks.foldl (fun m k => m.set k (.free tag)) m

/-! ### Field updates -/

/-- RESULT <- w (R36). -/
def State.setResult (s : State) (w : Word) : State := { s with result := w }

/-- The streaming context SACC, SX, SM, SSTATE (R33). -/
def State.setStream (s : State) (acc x m : Word) (st : SState) : State :=
  { s with sacc := acc, sx := x, sm := m, sstate := st }

/-- DRAWS <- w (R37). -/
def State.setDraws (s : State) (w : Word) : State := { s with draws := w }

def State.setOpmem (s : State) (m : Memory) : State := { s with opmem := m }

def State.setArgs (s : State) (a : Args) : State := { s with args := a }

/-- The writable fields of CTRL (R22). -/
def State.setCtrl (s : State) (ie : Bool) (shift : BitVec 5) : State := { s with ctrlIe := ie, ctrlShift := shift }

def State.setOvr (s : State) : State := { s with ovr := true }

def State.setDrawn (s : State) (ws : List Word) : State := { s with drawn := ws }

/-- A word of the Sampler is taken: its exchange is over (R151). -/
def State.takeWord (s : State) (w : Word) : State :=
  { s with drawn := s.drawn ++ [w], exchange := s.exchange + 1 }

def State.setInputs (s : State) (l : List Input) : State := { s with inputs := l }

def State.setReply (s : State) (r : Reply) : State := { s with reply := r }

/-! ### The command cycle -/

/-- Issue of a command word (R90): the snapshot of the live ARG registers and CTRL.SHIFT, and BUSY. -/
def State.issue (s : State) (w : Word) : State :=
  { s with pending := some { cmd := w, args := s.args, shift := s.ctrlShift }, busy := true, drawn := [] }

/-- Successful completion (R94), after the command's effects: ERR and OVR are not changed. -/
def State.complete (s : State) : State :=
  { s with errcode := 0, done := true, busy := false, pending := none, drawn := [] }

/-- Failed completion, FFCORE's error entry (R95, R179): only STATUS changes, and the command is over. -/
def State.fail (s : State) (e : ErrorCode) : State :=
  { s with errcode := e.code, err := true, done := true, busy := false, pending := none, drawn := [] }

/-- A host write to STATUS, the return from an error (R26, R180): W1C of DONE, ERR, OVR, nothing else. -/
def State.writeStatus (s : State) (w : Word) : State :=
  { s with done := w1c s.done w 1, err := w1c s.err w 2, ovr := w1c s.ovr w 3 }

/-- A command's meaning, given its snapshot. With no command pending the Engine does nothing (R188). -/
def State.withCommand (s : State) (k : Pending → State) : Host.Outcome State Fault Refusal :=
  match s.pending with
  | some p => .next (k p)
  | none   => .next s

/-- The running GEN's operands, if a GEN is pending (R92). -/
def State.runningGen (s : State) : Option GenOps :=
  match s.pending with
  | some p => if decode p.cmd = .ok .gen then some p.genOps else none
  | none   => none

/-! ### Resets -/

/-- OPMEM across a soft reset (R202, R203): unchanged, but for the share and scratch words of a GEN it abandons, which become
unspecified. -/
def State.softResetOpmem (s : State) : Memory :=
  match s.runningGen with
  | some g => s.opmem.release s.freeTag
      (g.shares.existing s.params.nOpmem ++ g.scratch.existing s.params.nOpmem)
  | none => s.opmem

/-- Soft reset (R23, R202): the values of R44 but for OPMEM. The outside world's inputs and the parameters are not FFCORE's to
reset. An exchange in progress is abandoned: the next one has another number (R204). -/
def State.softReset (s : State) : State :=
  { State.resetWith s.params s.freeTag with
    opmem := s.softResetOpmem, exchange := s.exchange + 1, inputs := s.inputs, reply := s.reply }

/-- Hardware reset (R201): the values of R44, with every OPMEM word unspecified anew (R73). An exchange in progress is abandoned:
the next one has another number (R204). -/
def State.hardReset (s : State) : State :=
  { State.resetWith s.params s.freeTag with exchange := s.exchange + 1, inputs := s.inputs }

/-- A command word placed as the pending command, with the Engine's slot next: `Step.withFetchWord` (log 8). -/
def State.placeCommand (s : State) (w : Word) : State :=
  (s.issue w).setInputs (.engine :: s.inputs)

end Sys2Proof.Machine
end

