-- ==== Sys2Proof/Machine/Reducer.lean ====
section
/-! DEFINITION. The Modular Reducer and REDUCE (40_reducer.md). -/

namespace Sys2Proof.Machine

/-- `Reduce(high, low, d)` (R101): the exact remainder of `high * 2^32 + low`. Defined for `d != 0`; every caller checks `d`
first (R103), so the value at `d = 0` is never used. -/
def reduce (high low d : Word) : Word :=
  BitVec.ofNat 32 ((high.toNat * 2 ^ 32 + low.toNat) % d.toNat)

/-- One step of the long division of R102, on the 33-bit working remainder. -/
def reduceStep (d : Word) (r : BitVec 33) (bit : Bool) : BitVec 33 :=
  let t := (r <<< 1) ||| (BitVec.ofBool bit).setWidth 33
  if d.setWidth 33 ≤ t then t - d.setWidth 33 else t

/-- `ReduceLD` (R102): the seed `high % d`, then the bits of `low` from 31 down to 0. -/
def reduceLD (high low d : Word) : Word :=
  ((List.range 32).foldl (fun r k => reduceStep d r (low.getLsbD (31 - k))) ((high % d).setWidth 33)).setWidth 32

/-- REDUCE (R100). -/
def execReduce (s : State) : Host.Outcome State Fault Refusal :=
  s.withCommand fun p =>
    let o := p.reduceOps
    if o.divisor = 0 then s.fail .divisionByZero
    else (s.setResult (reduce o.high o.low o.divisor)).complete

end Sys2Proof.Machine
end

