-- ==== Sys2Proof/Machine/FieldArith.lean ====
section
/-! DEFINITION. Field arithmetic, FMUL and FADD (41_field_arith.md). -/

namespace Sys2Proof.Machine

/-- `FMul(a, b, m)` (R111), for `m != 0`: the 64-bit product, split into halves, reduced. -/
def fmul (a b m : Word) : Word :=
  let p : BitVec 64 := a.setWidth 64 * b.setWidth 64
  reduce (p.extractLsb' 32 32) (p.extractLsb' 0 32) m

/-- `FAdd(a, b, m)` (R121), for `m != 0`: the 33-bit sum, its high half 0 or 1, reduced. -/
def fadd (a b m : Word) : Word :=
  let s : BitVec 33 := a.setWidth 33 + b.setWidth 33
  reduce ((s.extractLsb' 32 1).setWidth 32) (s.extractLsb' 0 32) m

/-- FMUL (R110). -/
def execFmul (s : State) : Host.Outcome State Fault Refusal :=
  s.withCommand fun p =>
    let o := p.fieldOps
    if o.m = 0 then s.fail .divisionByZero else (s.setResult (fmul o.a o.b o.m)).complete

/-- FADD (R120). -/
def execFadd (s : State) : Host.Outcome State Fault Refusal :=
  s.withCommand fun p =>
    let o := p.fieldOps
    if o.m = 0 then s.fail .divisionByZero else (s.setResult (fadd o.a o.b o.m)).complete

end Sys2Proof.Machine
end

