-- ==== Sys2Proof/Machine/PolyEval.lean ====
section
/-! DEFINITION. The Polynomial Evaluator: EVAL, and the streaming BEGIN, FOLD, CURRES (42_poly_eval.md). -/

namespace Sys2Proof.Machine

/-- One Horner step (R130). -/
def hornerStep (r x c m : Word) : Word := fadd (fmul r x m) c m

/-- `Horner(cs, x, m)` (R130), highest-degree coefficient first; for `m != 0`. -/
def horner (cs : List Word) (x m : Word) : Word := cs.foldl (fun r c => hornerStep r x c m) 0

/-- EVAL (R132), with the checks of R133 in their order. -/
def execEval (s : State) : Host.Outcome State Fault Refusal :=
  s.withCommand fun p =>
    let o := p.evalOps
    if o.m = 0 then s.fail .divisionByZero
    else if o.region.inRange s.params.nOpmem then
      (s.setResult (horner (s.opmem.readRegion o.region) o.x o.m)).complete
    else s.fail .addressRange

/-- BEGIN (R136). -/
def execBegin (s : State) : Host.Outcome State Fault Refusal :=
  s.withCommand fun p =>
    let o := p.beginOps
    if o.m = 0 then s.fail .divisionByZero else (s.setStream 0 o.x o.m .begun).complete

/-- FOLD (R137). A zero SM cannot be met outside UNINIT (R43, R171); in a state that no run reaches the reduction fails as R103
says (log 10). -/
def execFold (s : State) : Host.Outcome State Fault Refusal :=
  s.withCommand fun p =>
    if s.sstate = .uninit then s.fail .notInitialized
    else if s.sm = 0 then s.fail .divisionByZero
    else (s.setStream (hornerStep s.sacc s.sx p.foldOp s.sm) s.sx s.sm .folded).complete

/-- CURRES (R138). -/
def execCurres (s : State) : Host.Outcome State Fault Refusal :=
  s.withCommand fun _ =>
    if s.sstate = .uninit then s.fail .notInitialized else (s.setResult s.sacc).complete

end Sys2Proof.Machine
end

