-- ==== Sys2Proof/Machine/ShareGen.lean ====
section
/-! DEFINITION. The Share Generator, GEN, and the bounded sampler (43_share_gen.md). The raw words stand in a list; a computation
that needs one word more than the list has answers `none`: GEN then waits for the Sampler (R151, R158). -/

namespace Sys2Proof.Machine

/-- `w >> shift`, a logical shift (R150). -/
def shifted (shift : BitVec 5) (w : Word) : Word := w >>> shift.toNat

/-- `SampleBounded(max, shift)` (R150): the first word whose shifted value is below `max`, and the words after it. -/
def sampleBounded (max : Word) (shift : BitVec 5) : List Word → Option (Word × List Word)
  | [] => none
  | w :: ws => if shifted shift w < max then some (shifted shift w, ws) else sampleBounded max shift ws

/-- The coefficient draws of one participant (R152): the next `n` samples go to the scratch words `k`, `k+1`, ... -/
def drawCoefficients (g : GenOps) : Nat → Nat → Memory → List Word → Option (Memory × List Word)
  | 0, _, m, ws => some (m, ws)
  | n + 1, k, m, ws =>
    match sampleBounded g.fieldSize g.shift ws with
    | none => none
    | some (v, ws') => drawCoefficients g n (k + 1) (m.write k v) ws'

/-- One participant (R152, R154): coefficients, identity overwrite, evaluation point, Horner, share. -/
def genParticipant (g : GenOps) (i : Nat) (m : Memory) (ws : List Word) : Option (Memory × List Word) :=
  match drawCoefficients g g.degree.toNat g.scratch.base m ws with
  | none => none
  | some (m1, ws1) =>
    let m2 := m1.write (g.scratch.base + g.degree.toNat - 1) (m1.read (g.identities.base + i))
    match sampleBounded g.fieldSize g.shift ws1 with
    | none => none
    | some (x, ws2) =>
      some (m2.write (g.shares.base + i) (horner (m2.readRegion g.scratch) x g.fieldSize), ws2)

/-- Participants `i`, `i+1`, ..., `n` of them, in index order (R152, R154). -/
def genLoop (g : GenOps) : Nat → Nat → Memory → List Word → Option (Memory × List Word)
  | 0, _, m, ws => some (m, ws)
  | n + 1, i, m, ws =>
    match genParticipant g i m ws with
    | none => none
    | some (m', ws') => genLoop g n (i + 1) m' ws'

/-- The generation of R152 on the raw words `ws`: OPMEM after it and the words left, or `none` while the words do not suffice. -/
def genRun (g : GenOps) (m : Memory) (ws : List Word) : Option (Memory × List Word) :=
  genLoop g g.c.toNat 0 m ws

/-- The checks of R153, in their order; the first that applies is the error. -/
def genCheck (n : Nat) (g : GenOps) : Option ErrorCode :=
  if g.fieldSize = 0 then some .divisionByZero
  else if g.degree = 0 then some .invalidArgument
  else if !(g.identities.inRange n && g.shares.inRange n && g.scratch.inRange n) then some .addressRange
  else if g.identities.overlaps g.shares || g.identities.overlaps g.scratch || g.shares.overlaps g.scratch then
    some .invalidArgument
  else none

/-- GEN (R152). While the words drawn so far do not suffice it stays pending and changes nothing (R158). DRAWS is the number
of words taken, modulo 2^32 (R156). -/
def execGen (s : State) : Host.Outcome State Fault Refusal :=
  s.withCommand fun p =>
    let g := p.genOps
    match genCheck s.params.nOpmem g with
    | some e => s.fail e
    | none =>
      match genRun g s.opmem s.drawn with
      | none => s
      | some (m, rest) =>
        ((s.setOpmem m).setDraws (BitVec.ofNat 32 (s.drawn.length - rest.length))).complete

/-- The Engine's request to the Sampler is outstanding: a GEN that has passed its checks needs another word (R151, R153). -/
def State.asksSampler (s : State) : Bool :=
  match s.runningGen with
  | none => false
  | some g => genCheck s.params.nOpmem g == none && genRun g s.opmem s.drawn == none

/-- The Sampler offers a word for its exchange number `n`: taken when that exchange is the one in progress; else used by no command,
as a word offered for an exchange that a reset abandoned (R151, R204). -/
def State.takeSample (s : State) (n : Nat) (w : Word) : State :=
  if s.asksSampler && n == s.exchange then s.takeWord w else s

end Sys2Proof.Machine
end

