-- ==== Sys2Proof/Machine/Dispatch.lean ====
section
/-! DEFINITION. One arm per command: the meaning of the pending command at its completion (30_encoding.md R92). -/

namespace Sys2Proof.Machine

def exec (i : Instr) (s : State) : Host.Outcome State Fault Refusal :=
  match i with
  | .reduce => Sys2Proof.Machine.execReduce s
  | .fmul => Sys2Proof.Machine.execFmul s
  | .fadd => Sys2Proof.Machine.execFadd s
  | .eval => Sys2Proof.Machine.execEval s
  | .begin => Sys2Proof.Machine.execBegin s
  | .fold => Sys2Proof.Machine.execFold s
  | .curres => Sys2Proof.Machine.execCurres s
  | .gen => Sys2Proof.Machine.execGen s

end Sys2Proof.Machine
end

