-- ==== Sys2Proof/Machine/Bus.lean ====
section
/-! DEFINITION. The host window (20_memory.md R60 to R68, 10_state.md section 2): decoding of addresses, register reads and writes,
OPMEM accesses, refusals, and what each outside input does in one step. -/

namespace Sys2Proof.Machine

/-- Byte offset of a register in the window (10_state.md section 2). -/
def regOffset : Reg → Nat
  | .id => 0x000 | .ctrl => 0x004 | .status => 0x008 | .cmd => 0x00C
  | .arg0 => 0x010 | .arg1 => 0x014 | .arg2 => 0x018 | .arg3 => 0x01C | .arg4 => 0x020 | .arg5 => 0x024
  | .result => 0x028 | .sacc => 0x02C | .sx => 0x030 | .sm => 0x034 | .draws => 0x038 | .opmemWords => 0x03C

/-- The register at a word-aligned offset below 0x1000; `none` at a reserved one (R41, R61). -/
def regAt : Nat → Option Reg
  | 0x000 => some .id | 0x004 => some .ctrl | 0x008 => some .status | 0x00C => some .cmd
  | 0x010 => some .arg0 | 0x014 => some .arg1 | 0x018 => some .arg2 | 0x01C => some .arg3
  | 0x020 => some .arg4 | 0x024 => some .arg5 | 0x028 => some .result | 0x02C => some .sacc
  | 0x030 => some .sx | 0x034 => some .sm | 0x038 => some .draws | 0x03C => some .opmemWords
  | _ => none

/-- What a byte address of the bus falls on (R60, R61). -/
inductive Place where
  | reg (r : Reg)
  | reserved
  | opmem (k : Nat)
  | outside
  deriving DecidableEq, Repr

/-- Window decode of a word-aligned address (R61). -/
def place (p : Params) (addr : Nat) : Place :=
  if addr < p.base then .outside
  else
    let off := addr - p.base
    if off < 0x1000 then
      match regAt off with
      | some r => .reg r
      | none   => .reserved
    else if off < p.windowBytes then .opmem ((off - 0x1000) / 4)
    else .outside

/-- Byte address of a script target (R60, R87). -/
def targetAddr (p : Params) : Target → Nat
  | .reg r   => p.base + regOffset r
  | .opmem k => p.base + (0x1000 + 4 * k)

/-- The value a register reads as (10_state.md section 2). ID and OPMEM_WORDS are constants (R21, R39), CMD reads 0 (R40). -/
def State.readReg (s : State) : Reg → Word
  | .id         => 0x4D520007
  | .ctrl       => s.ctrlWord
  | .status     => s.statusWord
  | .cmd        => 0
  | .arg0       => s.args.arg0
  | .arg1       => s.args.arg1
  | .arg2       => s.args.arg2
  | .arg3       => s.args.arg3
  | .arg4       => s.args.arg4
  | .arg5       => s.args.arg5
  | .result     => s.result
  | .sacc       => s.sacc
  | .sx         => s.sx
  | .sm         => s.sm
  | .draws      => s.draws
  | .opmemWords => BitVec.ofNat 32 s.params.nOpmem

/-- A write to CTRL (R23): SRST resets and its other bits are ignored; else IE and SHIFT are stored. -/
def State.writeCtrl (s : State) (w : Word) : State :=
  if srstBit w then s.softReset else s.setCtrl (ieBit w) (shiftField w)

/-- A write to CMD (R40): issue when idle (R90); dropped with OVR set when busy (R91). -/
def State.writeCmd (s : State) (w : Word) : State :=
  if s.busy then s.setOvr else s.issue w

/-- A write to a register: read-only registers ignore it (R41). -/
def State.writeReg (s : State) (r : Reg) (w : Word) : State :=
  match r with
  | .ctrl   => s.writeCtrl w
  | .status => s.writeStatus w
  | .cmd    => s.writeCmd w
  | .arg0   => s.setArgs { s.args with arg0 := w }
  | .arg1   => s.setArgs { s.args with arg1 := w }
  | .arg2   => s.setArgs { s.args with arg2 := w }
  | .arg3   => s.setArgs { s.args with arg3 := w }
  | .arg4   => s.setArgs { s.args with arg4 := w }
  | .arg5   => s.setArgs { s.args with arg5 := w }
  | .id | .result | .sacc | .sx | .sm | .draws | .opmemWords => s

/-- A 32-bit aligned access of the window (R61, R66, R68). -/
def State.accessPlace (s : State) : Place → Direction → State
  | .reg r,   .read    => s.setReply (.data (s.readReg r))
  | .reg r,   .write w => (s.writeReg r w).setReply .accepted
  | .reserved, .read   => s.setReply (.data 0)
  | .reserved, .write _ => s.setReply .accepted
  | .opmem k, .read    => if s.busy then s.setReply .busError else s.setReply (.data (s.opmem.read k))
  | .opmem k, .write w =>
    if s.busy then s.setReply .busError else (s.setOpmem (s.opmem.write k w)).setReply .accepted
  | .outside, _        => s.setReply .notDecoded

/-- R62: the accesses the window accepts, by size and alignment. -/
def Access.aligned32 (a : Access) : Bool := a.bits == 32 && a.addr % 4 == 0

/-- How many byte addresses an access covers, at least one. -/
def Access.bytes (a : Access) : Nat := max 1 ((a.bits + 7) / 8)

/-- Some byte of the access lies in the window (R60). -/
def Access.meets (a : Access) (p : Params) : Bool :=
  decide (p.base < a.addr + a.bytes) && decide (a.addr < p.base + p.windowBytes)

/-- One host access, completely (R69). Outside the window nothing is decoded (R61); inside, a narrow, wide or misaligned access
is refused (R62). -/
def State.hostAccess (s : State) (a : Access) : State :=
  if a.meets s.params then
    if a.aligned32 then s.accessPlace (place s.params a.addr) a.dir else s.setReply .busError
  else s.setReply .notDecoded

/-- A burst (R62): made of aligned 32-bit beats it is those accesses, one after the other (R69); any other burst is refused whole,
whatever its total size, or not decoded where no beat reaches the window (R61). -/
def State.hostBurst (s : State) (beats : List Access) : State :=
  if beats.all Access.aligned32 then s.setInputs (beats.map .access ++ s.inputs)
  else if beats.any (fun b => b.meets s.params) then s.setReply .busError
  else s.setReply .notDecoded

/-- One poll of `WAIT` (R88): `RD STATUS`; while bit 0 reads 1 the host polls again, after a slot of the Engine. -/
def State.pollStatus (s : State) : State :=
  let t := s.hostAccess { addr := targetAddr s.params (.reg .status), bits := 32, dir := .read }
  if s.busy then t.setInputs (.engine :: .wait :: s.inputs) else t

/-- What an input other than an Engine slot does; it is no longer among `s.inputs`. -/
def State.outside (s : State) : Input → State
  | .engine    => s
  | .access a  => s.hostAccess a
  | .wait      => s.pollStatus
  | .burst bs  => s.hostBurst bs
  | .sample n w => s.takeSample n w
  | .hardReset => s.hardReset

end Sys2Proof.Machine
end

