-- ==== Sys2Proof/Machine/Script.lean ====
section
/-! DEFINITION. The command-script language: operations as bus inputs (30_encoding.md R87) and the pseudo-instructions with their
exact expansions (R88). -/

namespace Sys2Proof.Machine

/-- The bus access, or the polling loop, of one script operation (R87, R88). -/
def scriptInput (p : Params) : ScriptOp → Input
  | .wr t v => .access { addr := targetAddr p t, bits := 32, dir := .write v }
  | .rd t   => .access { addr := targetAddr p t, bits := 32, dir := .read }
  | .wait   => .wait

/-- `WR <register>, <value>`. -/
def wrReg (r : Reg) (v : Word) : ScriptOp := .wr (.reg r) v

/-- The `.NW` form of a pseudo-instruction: its expansion without the final WAIT (R88). -/
def expandNW : Pseudo → List ScriptOp
  | .wait => []
  | .reduce hi lo d => [wrReg .arg0 hi, wrReg .arg1 lo, wrReg .arg2 d, wrReg .cmd (encode .reduce)]
  | .fmul a b m => [wrReg .arg0 a, wrReg .arg1 b, wrReg .arg2 m, wrReg .cmd (encode .fmul)]
  | .fadd a b m => [wrReg .arg0 a, wrReg .arg1 b, wrReg .arg2 m, wrReg .cmd (encode .fadd)]
  | .eval len cb x m =>
    [wrReg .arg0 len, wrReg .arg1 cb, wrReg .arg2 x, wrReg .arg3 m, wrReg .cmd (encode .eval)]
  | .begin x m => [wrReg .arg0 x, wrReg .arg1 m, wrReg .cmd (encode .begin)]
  | .fold c => [wrReg .arg0 c, wrReg .cmd (encode .fold)]
  | .curres => [wrReg .cmd (encode .curres)]
  | .gen fs c d ib sb kb =>
    [wrReg .arg0 fs, wrReg .arg1 c, wrReg .arg2 d, wrReg .arg3 ib, wrReg .arg4 sb, wrReg .arg5 kb,
      wrReg .cmd (encode .gen)]
  | .srst  => [wrReg .ctrl 0x00000001]
  | .clrst => [wrReg .status 0x0000000E]

/-- The exact expansion (R88): the commands and WAIT end in WAIT, SRST and CLRST do not. -/
def expand (q : Pseudo) : List ScriptOp :=
  match q with
  | .srst | .clrst => expandNW q
  | .wait | .reduce .. | .fmul .. | .fadd .. | .eval .. | .begin .. | .fold .. | .curres | .gen .. =>
    expandNW q ++ [.wait]

/-- The inputs of a script of pseudo-instructions. -/
def scriptInputs (p : Params) (qs : List Pseudo) : List Input :=
  (qs.flatMap expand).map (scriptInput p)

end Sys2Proof.Machine
end

