-- ==== Sys2Proof/Machine/Step.lean ====
section
/-! DEFINITION. One step of the machine: the next outside input, or the Engine's slot (R89, R92). -/

namespace Sys2Proof.Machine

/-- The Engine's slot: decode the pending command word and run it, or fail it with IllegalCommand (R92, R174). Idle, the Engine
does nothing (R188). -/
def engineSlot (s : State) : Host.Outcome State Fault Refusal :=
  match s.pending with
  | none => .next s
  | some p =>
    match decode p.cmd with
    | .ok i    => exec i s
    | .error _ => .next (s.fail .illegalCommand)

/-- One step. With no input listed the outside world is quiet and the slot is the Engine's (log 1). -/
def step (s : State) : Host.Outcome State Fault Refusal :=
  match s.inputs with
  | [] => engineSlot s
  | .engine :: rest => engineSlot (s.setInputs rest)
  | .access a :: rest => .next ((s.setInputs rest).outside (.access a))
  | .wait :: rest => .next ((s.setInputs rest).outside .wait)
  | .burst bs :: rest => .next ((s.setInputs rest).outside (.burst bs))
  | .sample n w :: rest => .next ((s.setInputs rest).outside (.sample n w))
  | .hardReset :: rest => .next ((s.setInputs rest).outside .hardReset)

/-- The command word of the table's bits, issued with the live ARG registers and CTRL.SHIFT, the Engine's slot next (log 8). -/
def State.withFetchWord (s : State) (nbits w : Nat) : State := s.placeCommand (tableWord nbits w)

end Sys2Proof.Machine
end

