-- ==== Sys2Proof/Safety.lean ====
section
/-! DEFINITION. What counts as a sound state, and as a safe step: the invariants the spec states of the whole machine. -/

namespace Sys2Proof.Machine

/-- A free value's tag has been given out (R73, R203: later ones are fresh). -/
def Content.tagBelow (n : Nat) : Content → Prop
  | .known _  => True
  | .free tag => tag < n

/-- The invariant of every state of a run. -/
structure State.Inv (s : State) : Prop where
  /-- R9: legal parameters -/
  params   : s.params.WellFormed
  /-- R27: BUSY is 1 exactly while a command is pending -/
  busy     : s.busy = s.pending.isSome
  /-- R170: the codes 6 to 15 are never written -/
  errcode  : s.errcode.toNat ≤ 5
  /-- R43: a begun or folded evaluation has a nonzero SM and SACC below it -/
  stream   : s.sstate ≠ .uninit → s.sm ≠ 0 ∧ s.sacc.toNat < s.sm.toNat
  /-- R43, R44: in UNINIT the context is all 0 -/
  uninit   : s.sstate = .uninit → s.sacc = 0 ∧ s.sx = 0 ∧ s.sm = 0
  /-- OPMEM is in canonical form -/
  opmem    : s.opmem.wf
  /-- R64: OPMEM has N_OPMEM words -/
  inBounds : ∀ e ∈ s.opmem.cells, e.1 < s.params.nOpmem
  /-- R73, R203: every free value's tag is an old one -/
  tags     : s.opmem.epoch < s.freeTag ∧ ∀ e ∈ s.opmem.cells, e.2.tagBelow s.freeTag
  /-- R151: only a running GEN holds words of the Sampler -/
  drawn    : s.runningGen = none → s.drawn = []

/-- A step is safe when it goes on, to a state that is sound again. -/
def SafeStep (s : State) : Prop := ∃ t, step s = .next t ∧ t.Inv

/-! ### Terms of the claims -/

/-- The command completes with the value `v` in RESULT and no other effect (R36, R94). -/
def CompletesWithResult (i : Instr) (s : State) (v : Nat) : Prop :=
  ∃ r : Word, r.toNat = v ∧ exec i s = .next (s.setResult r).complete

/-- The command fails with the error `e` (R95). -/
def FailsWith (i : Instr) (s : State) (e : ErrorCode) : Prop := exec i s = .next (s.fail e)

/-- The registers at the values of R44; OPMEM apart. -/
def AtResetValues (t : State) : Prop :=
  t.ctrlIe = false ∧ t.ctrlShift = 0 ∧ t.busy = false ∧ t.done = false ∧ t.err = false ∧ t.ovr = false ∧
  t.errcode = 0 ∧ t.sstate = .uninit ∧ t.args = ⟨0, 0, 0, 0, 0, 0⟩ ∧ t.result = 0 ∧ t.sacc = 0 ∧ t.sx = 0 ∧
  t.sm = 0 ∧ t.draws = 0 ∧ t.pending = none

/-- The input is a soft reset: a 32-bit write to CTRL with bit 0 = 1 (R23). -/
def SoftResets (s : State) (x : Input) : Prop :=
  ∃ w : Word, w.getLsbD 0 = true ∧ x = .access { addr := s.params.base + 0x004, bits := 32, dir := .write w }

/-- Some byte address of the access lies in the window of R60. -/
def Access.InWindow (a : Access) (p : Params) : Prop :=
  ∃ j, (a.addr ≤ j ∧ j < a.addr + max 1 ((a.bits + 7) / 8)) ∧ p.base ≤ j ∧ j < p.base + (0x1000 + 4 * p.nOpmem)

/-- The next slot is the Engine's. -/
def EngineNext (s : State) : Prop := s.inputs = [] ∨ ∃ rest, s.inputs = .engine :: rest

/-- No command is pending (R27, R42). -/
def State.Idle (s : State) : Prop := s.busy = false ∧ s.pending = none

/-- A GEN that passes the checks of R153, with R65 written out: nonzero field and degree, each region empty or ending at or
below N_OPMEM, and no word in two of them. -/
def GenOps.Legal (g : GenOps) (n : Nat) : Prop :=
  g.fieldSize ≠ 0 ∧ g.degree ≠ 0 ∧
  (∀ r ∈ [g.identities, g.shares, g.scratch], r.len = 0 ∨ r.base + r.len ≤ n) ∧
  ∀ k, ¬ (g.identities.Holds k ∧ g.shares.Holds k) ∧ ¬ (g.identities.Holds k ∧ g.scratch.Holds k) ∧
    ¬ (g.shares.Holds k ∧ g.scratch.Holds k)

/-- The samples that raw words give: every shifted word below the field size, in order (R150). -/
def GenOps.samples (g : GenOps) (ws : List Word) : List Word :=
  (ws.map (shifted g.shift)).filter (fun v => decide (v < g.fieldSize))

/-- Every participant consumes `degree + 1` samples (R154). -/
def GenOps.samplesNeeded (g : GenOps) : Nat := g.c.toNat * (g.degree.toNat + 1)

/-- A running GEN has passed its checks and lacks a sample: its exchange with the Sampler is in progress (R151, R153). -/
def AsksForSample (s : State) : Prop :=
  ∃ g, s.runningGen = some g ∧ g.Legal s.params.nOpmem ∧ (g.samples s.drawn).length < g.samplesNeeded

/-- Participant `i`'s coefficient sequence (R154, R155): its first `degree - 1` samples, then `identity[i]` in the place of the
last. -/
def GenOps.coefficients (g : GenOps) (m : Memory) (samples : List Word) (i : Nat) : List Word :=
  (samples.drop (i * (g.degree.toNat + 1))).take (g.degree.toNat - 1) ++ [m.read (g.identities.base + i)]

/-- Participant `i`'s evaluation point `x_i`: the sample after its coefficients (R154). -/
def GenOps.point (g : GenOps) (samples : List Word) (i : Nat) : Word :=
  samples.getD (i * (g.degree.toNat + 1) + g.degree.toNat) 0

end Sys2Proof.Machine
end

