-- ==== Sys2Proof/Certificates/Slice0/Obligations.lean ====
section
/-! DEFINITION. The statements for the provers, from the numbered rules of spec/. A statement over all states says what holds in
states no run reaches too; where it needs `State.Inv` or legal parameters it says so. -/

open Sys2Proof Sys2Proof.Machine

/-! ### Encoding and the step -/

/-- R81, R84: the eight words of the table, the other OPC values, and words with a reserved bit set. -/
def Obligations.SpecWordsDecode : Prop :=
  decode 0x00000001 = .ok .reduce ∧ decode 0x00000002 = .ok .fmul ∧ decode 0x00000003 = .ok .fadd ∧
  decode 0x00000004 = .ok .eval ∧ decode 0x00000005 = .ok .begin ∧ decode 0x00000006 = .ok .fold ∧
  decode 0x00000007 = .ok .curres ∧ decode 0x00000008 = .ok .gen ∧
  decode 0x00000000 = .error .opcodeUnassigned ∧ decode 0x00000009 = .error .opcodeUnassigned ∧
  decode 0x0000000F = .error .opcodeUnassigned ∧ decode 0x00000011 = .error .reservedBitSet ∧
  decode 0x00000018 = .error .reservedBitSet ∧ decode 0x80000001 = .error .reservedBitSet

/-- Decode of encode, as a word, from the byte lanes (R63) and from the opcode table's bits. -/
def Obligations.EncodeThenDecode : Prop :=
  ∀ i : Instr, decode (encode i) = .ok i ∧
    decodeBytes [byteLane (encode i) 0, byteLane (encode i) 1, byteLane (encode i) 2, byteLane (encode i) 3] = .ok i ∧
    decodeTableWord 32 (encode i).toNat = some i

/-- Of all 2^32 words a word decodes to a command exactly when it is that command's encoding, and exactly when it matches that
command's row of the opcode table. -/
def Obligations.DecodeIsTheOpcodeTable : Prop :=
  ∀ (w : Word) (i : Instr), (decode w = .ok i ↔ w = encode i) ∧
    (decode w = .ok i ↔ ∃ r ∈ opcodeTable, r.instr = i ∧ w &&& r.mask = r.pattern)

/-- R84: exactly the words 1 to 8 are legal; any other word written to CMD while BUSY = 0 is issued like any
command (R90), and the Engine's next slot completes it (R92, R95) with IllegalCommand (code 4) and no other effect. That one slot of
the Engine is enough is log 1; R89 leaves the time open. -/
def Obligations.IllegalWordsCompleteWithIllegalCommand : Prop :=
  (∀ w : Word, (∃ i, decode w = .ok i) ↔ 1 ≤ w.toNat ∧ w.toNat ≤ 8) ∧
  ∀ (s : State) (w : Word) (rest : List Input), s.params.WellFormed → s.busy = false →
    ¬ (1 ≤ w.toNat ∧ w.toNat ≤ 8) →
    s.inputs = .access { addr := s.params.base + 0x00C, bits := 32, dir := .write w } :: .engine :: rest →
    step s = .next { s with
      pending := some { cmd := w, args := s.args, shift := s.ctrlShift }, busy := true, drawn := []
      inputs := .engine :: rest, reply := .accepted } ∧
    core.run 2 s = .next { s with
      errcode := 4, err := true, done := true, busy := false, pending := none, drawn := []
      inputs := rest, reply := .accepted }

/-- A step whose slot is the Engine's is exec of the decoded pending command, past the slot; with a word that decodes to no
command it is the failed completion with IllegalCommand; with no command pending it changes nothing else. That a step with no
input listed is an Engine slot is log 1. -/
def Obligations.StepRunsThePendingCommand : Prop :=
  ∀ (s : State) (rest : List Input),
    (∀ p i, s.pending = some p → decode p.cmd = .ok i →
      (s.inputs = [] → step s = exec i s) ∧
      (s.inputs = .engine :: rest → step s = exec i (s.setInputs rest))) ∧
    (∀ p r, s.pending = some p → decode p.cmd = .error r →
      (s.inputs = [] → step s = .next (s.fail .illegalCommand)) ∧
      (s.inputs = .engine :: rest → step s = .next ((s.setInputs rest).fail .illegalCommand))) ∧
    (s.pending = none →
      (s.inputs = [] → step s = .next s) ∧ (s.inputs = .engine :: rest → step s = .next (s.setInputs rest)))

/-- The word that withFetchWord places is the one the very next step runs, as if it had just been issued (log 8). -/
def Obligations.FetchedWordRunsNext : Prop :=
  ∀ (s : State) (w : Nat) (i : Instr), decodeTableWord 32 w = some i →
    step (s.withFetchWord 32 w) = exec i (s.issue (tableWord 32 w))

/-! ### Results: where each command completes, and with what -/

/-- R100, R101. -/
def Obligations.ReduceGivesTheExactRemainder : Prop :=
  ∀ (s : State) (p : Pending), s.pending = some p → p.args.arg2 ≠ 0 →
    CompletesWithResult .reduce s ((p.args.arg0.toNat * 2 ^ 32 + p.args.arg1.toNat) % p.args.arg2.toNat)

/-- R110, R111: the exact product modulo m, for every operand. -/
def Obligations.FmulGivesTheProduct : Prop :=
  ∀ (s : State) (p : Pending), s.pending = some p → p.args.arg2 ≠ 0 →
    CompletesWithResult .fmul s ((p.args.arg0.toNat * p.args.arg1.toNat) % p.args.arg2.toNat)

/-- R120, R121: the exact sum modulo m, for every operand. -/
def Obligations.FaddGivesTheSum : Prop :=
  ∀ (s : State) (p : Pending), s.pending = some p → p.args.arg2 ≠ 0 →
    CompletesWithResult .fadd s ((p.args.arg0.toNat + p.args.arg1.toNat) % p.args.arg2.toNat)

/-- R131, R132: the polynomial's value modulo m, highest-degree coefficient first, whenever the coefficient region is empty or
ends at or below N_OPMEM. -/
def Obligations.EvalGivesThePolynomialValue : Prop :=
  ∀ (s : State) (p : Pending), s.pending = some p → p.args.arg3 ≠ 0 →
    (p.args.arg0 = 0 ∨ p.args.arg1.toNat + p.args.arg0.toNat ≤ s.params.nOpmem) →
    CompletesWithResult .eval s
      ((∑ j ∈ Finset.range p.args.arg0.toNat,
          (s.opmem.read (p.args.arg1.toNat + j)).toNat * p.args.arg2.toNat ^ (p.args.arg0.toNat - 1 - j))
        % p.args.arg3.toNat)

/-- R136: BEGIN resets the accumulator and records x and m, from any streaming state. -/
def Obligations.BeginStartsAnEvaluation : Prop :=
  ∀ (s : State) (p : Pending), s.pending = some p → p.args.arg1 ≠ 0 →
    exec .begin s = .next { s with
      sacc := 0, sx := p.args.arg0, sm := p.args.arg1, sstate := .begun
      errcode := 0, done := true, busy := false, pending := none, drawn := [] }

/-- R137: one Horner step on the accumulator. -/
def Obligations.FoldAppliesOneHornerStep : Prop :=
  ∀ (s : State) (p : Pending), s.pending = some p → s.sstate ≠ .uninit → s.sm ≠ 0 →
    ∃ acc : Word, acc.toNat = (s.sacc.toNat * s.sx.toNat + p.args.arg0.toNat) % s.sm.toNat ∧
      exec .fold s = .next { s with
        sacc := acc, sstate := .folded
        errcode := 0, done := true, busy := false, pending := none, drawn := [] }

/-- R138: CURRES returns the accumulator, in BEGUN and in FOLDED. -/
def Obligations.CurresReturnsTheAccumulator : Prop :=
  ∀ (s : State) (p : Pending), s.pending = some p → s.sstate ≠ .uninit →
    CompletesWithResult .curres s s.sacc.toNat

/-- R158: a GEN that passes its checks completes exactly when the words drawn hold `c * (degree + 1)` samples; till then it
stays pending and changes nothing. -/
def Obligations.GenCompletesWhenTheSamplerSuffices : Prop :=
  ∀ (s : State) (p : Pending), s.pending = some p → p.genOps.Legal s.params.nOpmem →
    (p.genOps.samplesNeeded ≤ (p.genOps.samples s.drawn).length →
      ∃ m d, exec .gen s = .next ((s.setOpmem m).setDraws d).complete) ∧
    ((p.genOps.samples s.drawn).length < p.genOps.samplesNeeded → exec .gen s = .next s)

/-- R154, R155, R156: the shares, the scratch words, every other OPMEM word, and DRAWS, of a GEN whose words suffice. The count
`n` is that of the words up to the last sample needed. -/
def Obligations.GenSharesAreHornerOfTheDraws : Prop :=
  ∀ (s : State) (p : Pending) (g : GenOps), s.pending = some p → g = p.genOps → g.Legal s.params.nOpmem →
    g.samplesNeeded ≤ (g.samples s.drawn).length →
    ∃ (m : Memory) (n : Nat),
      exec .gen s = .next ((s.setOpmem m).setDraws (BitVec.ofNat 32 n)).complete ∧
      (∀ i < g.c.toNat, m.read (g.shbase.toNat + i) =
        horner (g.coefficients s.opmem (g.samples s.drawn) i) (g.point (g.samples s.drawn) i) g.fieldSize) ∧
      (g.c ≠ 0 → m.readRegion g.scratch = g.coefficients s.opmem (g.samples s.drawn) (g.c.toNat - 1)) ∧
      (∀ k, ¬ g.shares.Holds k → (g.c = 0 ∨ ¬ g.scratch.Holds k) → m.read k = s.opmem.read k) ∧
      n ≤ s.drawn.length ∧ (g.samples (s.drawn.take n)).length = g.samplesNeeded ∧
      ∀ n' < n, (g.samples (s.drawn.take n')).length < g.samplesNeeded

/-! ### Errors -/

/-- R171: every command that takes a divisor, a modulus or a field size fails with DivisionByZero when it is zero, EVAL whatever
the length; FOLD cannot, in any sound state. -/
def Obligations.ZeroModulusFails : Prop :=
  ∀ (s : State) (p : Pending), s.pending = some p →
    (p.args.arg2 = 0 → FailsWith .reduce s .divisionByZero ∧ FailsWith .fmul s .divisionByZero ∧
      FailsWith .fadd s .divisionByZero) ∧
    (p.args.arg3 = 0 → FailsWith .eval s .divisionByZero) ∧
    (p.args.arg1 = 0 → FailsWith .begin s .divisionByZero) ∧
    (p.args.arg0 = 0 → FailsWith .gen s .divisionByZero) ∧
    (s.Inv → ∀ t, exec .fold s = .next t → t.errcode ≠ 1)

/-- R172. -/
def Obligations.UninitializedStreamFails : Prop :=
  ∀ (s : State) (p : Pending), s.pending = some p → s.sstate = .uninit →
    FailsWith .fold s .notInitialized ∧ FailsWith .curres s .notInitialized

/-- R133: EVAL's checks in their order, on unbounded naturals. -/
def Obligations.EvalChecksModulusThenRange : Prop :=
  ∀ (s : State) (p : Pending), s.pending = some p →
    (p.args.arg3 = 0 → FailsWith .eval s .divisionByZero) ∧
    (p.args.arg3 ≠ 0 → p.args.arg0 ≠ 0 → s.params.nOpmem < p.args.arg1.toNat + p.args.arg0.toNat →
      FailsWith .eval s .addressRange)

/-- R153, R178: GEN's checks in their order; the first that applies is the error. -/
def Obligations.GenChecksInOrder : Prop :=
  ∀ (s : State) (p : Pending) (g : GenOps), s.pending = some p → g = p.genOps →
    (g.fieldSize = 0 → FailsWith .gen s .divisionByZero) ∧
    (g.fieldSize ≠ 0 → g.degree = 0 → FailsWith .gen s .invalidArgument) ∧
    (g.fieldSize ≠ 0 → g.degree ≠ 0 →
      (∃ r ∈ [g.identities, g.shares, g.scratch], r.len ≠ 0 ∧ s.params.nOpmem < r.base + r.len) →
      FailsWith .gen s .addressRange) ∧
    (g.fieldSize ≠ 0 → g.degree ≠ 0 →
      (∀ r ∈ [g.identities, g.shares, g.scratch], r.len = 0 ∨ r.base + r.len ≤ s.params.nOpmem) →
      (∃ k, (g.identities.Holds k ∧ g.shares.Holds k) ∨ (g.identities.Holds k ∧ g.scratch.Holds k) ∨
        (g.shares.Holds k ∧ g.scratch.Holds k)) →
      FailsWith .gen s .invalidArgument)

/-- R95, R177: whatever the pending command word, an Engine slot that completes it with an error changes STATUS and nothing else
of the machine. -/
def Obligations.FailedCommandChangesOnlyStatus : Prop :=
  ∀ (s t : State) (p : Pending), s.pending = some p → EngineNext s → step s = .next t → t.pending = none →
    t.errcode ≠ 0 →
    t = { s with
      errcode := t.errcode, err := true, done := true, busy := false, pending := none, drawn := []
      inputs := s.inputs.tail }

/-- R94: a command that completes without an error sets ERRCODE to 0 and DONE, ends, and leaves ERR and OVR. -/
def Obligations.SuccessfulCommandKeepsErrAndOvr : Prop :=
  ∀ (i : Instr) (s t : State) (p : Pending), s.pending = some p → exec i s = .next t → t.pending = none →
    t.errcode = 0 → t.done = true ∧ t.busy = false ∧ t.err = s.err ∧ t.ovr = s.ovr

/-! ### Frames and whole-machine rules -/

/-- REDUCE, FMUL, FADD, EVAL and CURRES: only RESULT and the completion's STATUS bits may change; no OPMEM word does. -/
def Obligations.ResultCommandsFrame : Prop :=
  ∀ (i : Instr) (s t : State), i = .reduce ∨ i = .fmul ∨ i = .fadd ∨ i = .eval ∨ i = .curres →
    exec i s = .next t →
    t.ctrlIe = s.ctrlIe ∧ t.ctrlShift = s.ctrlShift ∧ t.ovr = s.ovr ∧ (s.err = true → t.err = true) ∧
    (s.done = true → t.done = true) ∧ t.args = s.args ∧
    t.sstate = s.sstate ∧ t.sacc = s.sacc ∧ t.sx = s.sx ∧ t.sm = s.sm ∧ t.draws = s.draws ∧
    t.params = s.params ∧ t.exchange = s.exchange ∧ t.freeTag = s.freeTag ∧ t.inputs = s.inputs ∧ t.reply = s.reply ∧
    ∀ k, t.opmem.read k = s.opmem.read k

/-- BEGIN and FOLD: only SACC, SX, SM, SSTATE (FOLD: SACC and SSTATE) and the completion's STATUS bits may change. -/
def Obligations.StreamCommandsFrame : Prop :=
  ∀ (i : Instr) (s t : State), i = .begin ∨ i = .fold → exec i s = .next t →
    t.ctrlIe = s.ctrlIe ∧ t.ctrlShift = s.ctrlShift ∧ t.ovr = s.ovr ∧ (s.err = true → t.err = true) ∧
    (s.done = true → t.done = true) ∧ t.args = s.args ∧
    t.result = s.result ∧ t.draws = s.draws ∧ (i = .fold → t.sx = s.sx ∧ t.sm = s.sm) ∧
    t.params = s.params ∧ t.exchange = s.exchange ∧ t.freeTag = s.freeTag ∧ t.inputs = s.inputs ∧ t.reply = s.reply ∧
    ∀ k, t.opmem.read k = s.opmem.read k

/-- R155, R159: GEN: only DRAWS, the share and scratch words, and the completion's STATUS bits may change; not the streaming
context, not RESULT, not the identities. -/
def Obligations.GenFrame : Prop :=
  ∀ (s t : State) (p : Pending), s.pending = some p → exec .gen s = .next t →
    t.ctrlIe = s.ctrlIe ∧ t.ctrlShift = s.ctrlShift ∧ t.ovr = s.ovr ∧ (s.err = true → t.err = true) ∧
    (s.done = true → t.done = true) ∧ t.args = s.args ∧
    t.result = s.result ∧ t.sstate = s.sstate ∧ t.sacc = s.sacc ∧ t.sx = s.sx ∧ t.sm = s.sm ∧
    t.params = s.params ∧ t.exchange = s.exchange ∧ t.freeTag = s.freeTag ∧ t.inputs = s.inputs ∧ t.reply = s.reply ∧
    (∀ k, ¬ p.genOps.shares.Holds k → ¬ p.genOps.scratch.Holds k → t.opmem.read k = s.opmem.read k) ∧
    ∀ k, p.genOps.identities.Holds k → t.opmem.read k = s.opmem.read k

/-- R33, R135: only a BEGIN, a FOLD or a reset changes the streaming context. -/
def Obligations.OnlyBeginFoldOrResetChangesTheStream : Prop :=
  ∀ s t : State, step s = .next t →
    ¬ (t.sacc = s.sacc ∧ t.sx = s.sx ∧ t.sm = s.sm ∧ t.sstate = s.sstate) →
    (EngineNext s ∧ ∃ p, s.pending = some p ∧ (decode p.cmd = .ok .begin ∨ decode p.cmd = .ok .fold)) ∨
    (∃ x rest, s.inputs = x :: rest ∧ (x = .hardReset ∨ SoftResets s x))

/-- R70, R93: no input but a reset changes what a command produces; while BUSY it changes neither the command nor OPMEM. -/
def Obligations.EffectsAppearOnlyAtCompletion : Prop :=
  ∀ (s t : State) (x : Input) (rest : List Input), s.inputs = x :: rest → x ≠ .engine → x ≠ .hardReset →
    ¬ SoftResets s x → step s = .next t →
    (t.result = s.result ∧ t.sacc = s.sacc ∧ t.sx = s.sx ∧ t.sm = s.sm ∧ t.sstate = s.sstate ∧
      t.draws = s.draws ∧ t.errcode = s.errcode) ∧
    (s.busy = true → t.busy = true ∧ t.pending = s.pending ∧ t.opmem = s.opmem)

/-- R42: a running command reads only its snapshot: other live ARG and CTRL values change nothing of what it does. -/
def Obligations.RunningCommandReadsOnlyItsSnapshot : Prop :=
  ∀ (i : Instr) (s : State) (p : Pending) (a : Args) (ie : Bool) (shift : BitVec 5), s.pending = some p →
    ∃ t, exec i s = .next t ∧ exec i ((s.setArgs a).setCtrl ie shift) = .next ((t.setArgs a).setCtrl ie shift)

/-! ### Host accesses -/

/-- R61, R62: an access with a byte in the window that is not a 32-bit access at a multiple of 4 is refused, with no effect; one
with no byte in it is not decoded. That one byte is enough is log 12; the answer notDecoded is log 7. -/
def Obligations.RefusedAccessHasNoEffect : Prop :=
  ∀ (s : State) (a : Access) (rest : List Input), s.inputs = .access a :: rest →
    (a.InWindow s.params → ¬ (a.bits = 32 ∧ a.addr % 4 = 0) →
      step s = .next ((s.setInputs rest).setReply .busError)) ∧
    (¬ a.InWindow s.params → step s = .next ((s.setInputs rest).setReply .notDecoded))

/-- R62: a burst of aligned 32-bit beats is those accesses in order; a burst with any other beat is refused whole, with no effect,
whatever its total size, if a beat reaches the window, and is not decoded if none does (log 12). -/
def Obligations.BurstIsItsBeatsOrRefused : Prop :=
  ∀ (s : State) (beats : List Access) (rest : List Input), s.inputs = .burst beats :: rest →
    ((∀ b ∈ beats, b.bits = 32 ∧ b.addr % 4 = 0) →
      step s = .next (s.setInputs (beats.map .access ++ rest))) ∧
    ((∃ b ∈ beats, ¬ (b.bits = 32 ∧ b.addr % 4 = 0)) →
      ((∃ b ∈ beats, b.InWindow s.params) → step s = .next ((s.setInputs rest).setReply .busError)) ∧
      ((∀ b ∈ beats, ¬ b.InWindow s.params) → step s = .next ((s.setInputs rest).setReply .notDecoded)))

/-- R66: while BUSY an access to any OPMEM word is refused with no effect; an access to a register is accepted, BUSY or not. -/
def Obligations.OpmemIsRefusedWhileBusy : Prop :=
  ∀ (s : State) (rest : List Input) (d : Direction), s.params.WellFormed →
    (∀ k < s.params.nOpmem, s.busy = true →
      s.inputs = .access { addr := s.params.base + (0x1000 + 4 * k), bits := 32, dir := d } :: rest →
      step s = .next ((s.setInputs rest).setReply .busError)) ∧
    (∀ r : Reg, s.inputs = .access { addr := s.params.base + regOffset r, bits := 32, dir := d } :: rest →
      ∃ t, step s = .next t ∧ (t.reply = .accepted ∨ ∃ w, t.reply = .data w))

/-- The register map (10_state.md section 2): each register reads as its value, and a read changes nothing (R67). -/
def Obligations.RegisterReadsGiveTheirValues : Prop :=
  ∀ (s : State) (r : Reg) (rest : List Input), s.params.WellFormed →
    s.inputs = .access { addr := s.params.base + regOffset r, bits := 32, dir := .read } :: rest →
    ∃ w : Word, step s = .next ((s.setInputs rest).setReply (.data w)) ∧
      (r = .id → w = 0x4D520007) ∧ (r = .cmd → w = 0) ∧ (r = .opmemWords → w.toNat = s.params.nOpmem) ∧
      (r = .ctrl → w = s.ctrlWord) ∧ (r = .status → w = s.statusWord) ∧
      (r = .arg0 → w = s.args.arg0) ∧ (r = .arg1 → w = s.args.arg1) ∧ (r = .arg2 → w = s.args.arg2) ∧
      (r = .arg3 → w = s.args.arg3) ∧ (r = .arg4 → w = s.args.arg4) ∧ (r = .arg5 → w = s.args.arg5) ∧
      (r = .result → w = s.result) ∧ (r = .sacc → w = s.sacc) ∧ (r = .sx → w = s.sx) ∧ (r = .sm → w = s.sm) ∧
      (r = .draws → w = s.draws)

/-- R26: the fields of STATUS as read, all 0 at reset; a write clears DONE, ERR and OVR where its bit is 1 and nothing else. -/
def Obligations.StatusFieldsAndWriteOneToClear : Prop :=
  (∀ s : State, s.statusWord.getLsbD 0 = s.busy ∧ s.statusWord.getLsbD 1 = s.done ∧
    s.statusWord.getLsbD 2 = s.err ∧ s.statusWord.getLsbD 3 = s.ovr ∧
    s.statusWord.extractLsb' 4 4 = s.errcode ∧ s.statusWord.extractLsb' 8 2 = s.sstate.code ∧
    s.statusWord.toNat < 2 ^ 10) ∧
  State.reset.statusWord = 0 ∧
  ∀ (s : State) (w : Word) (rest : List Input), s.params.WellFormed →
    s.inputs = .access { addr := s.params.base + 0x008, bits := 32, dir := .write w } :: rest →
    step s = .next { s with
      done := s.done && !w.getLsbD 1, err := s.err && !w.getLsbD 2, ovr := s.ovr && !w.getLsbD 3
      inputs := rest, reply := .accepted }

/-- R22, R23: CTRL as read; a write with bit 0 = 1 is a soft reset, whatever its other bits, after which CTRL holds 0; one with
bit 0 = 0 stores IE and SHIFT and nothing else; both are accepted, BUSY or not. -/
def Obligations.CtrlFieldsAndSoftResetBit : Prop :=
  (∀ s : State, s.ctrlWord.getLsbD 0 = false ∧ s.ctrlWord.getLsbD 1 = s.ctrlIe ∧
    s.ctrlWord.extractLsb' 2 6 = 0 ∧ s.ctrlWord.extractLsb' 8 5 = s.ctrlShift ∧ s.ctrlWord.toNat < 2 ^ 13) ∧
  ∀ (s : State) (w : Word) (rest : List Input), s.params.WellFormed →
    s.inputs = .access { addr := s.params.base + 0x004, bits := 32, dir := .write w } :: rest →
    (w.getLsbD 0 = true → step s = .next ((s.setInputs rest).softReset.setReply .accepted) ∧
      AtResetValues (s.setInputs rest).softReset ∧ (s.setInputs rest).softReset.ctrlWord = 0) ∧
    (w.getLsbD 0 = false → step s = .next { s with
      ctrlIe := w.getLsbD 1, ctrlShift := w.extractLsb' 8 5, inputs := rest, reply := .accepted })

/-- R90. -/
def Obligations.CmdWriteIssuesWhenIdle : Prop :=
  ∀ (s : State) (w : Word) (rest : List Input), s.params.WellFormed → s.busy = false →
    s.inputs = .access { addr := s.params.base + 0x00C, bits := 32, dir := .write w } :: rest →
    step s = .next { s with
      pending := some { cmd := w, args := s.args, shift := s.ctrlShift }, busy := true
      drawn := [], inputs := rest, reply := .accepted }

/-- R91. -/
def Obligations.CmdWriteIsDroppedWhileBusy : Prop :=
  ∀ (s : State) (w : Word) (rest : List Input), s.params.WellFormed → s.busy = true →
    s.inputs = .access { addr := s.params.base + 0x00C, bits := 32, dir := .write w } :: rest →
    step s = .next { s with ovr := true, inputs := rest, reply := .accepted }

/-- R35: a host write stores an ARG register, BUSY or not, and no command writes one. -/
def Obligations.OnlyTheHostWritesArgRegisters : Prop :=
  (∀ (s : State) (w : Word) (rest : List Input) (n : Nat), s.params.WellFormed → n < 6 →
    s.inputs = .access { addr := s.params.base + (0x010 + 4 * n), bits := 32, dir := .write w } :: rest →
    step s = .next { s with
      args := { arg0 := if n = 0 then w else s.args.arg0, arg1 := if n = 1 then w else s.args.arg1
                arg2 := if n = 2 then w else s.args.arg2, arg3 := if n = 3 then w else s.args.arg3
                arg4 := if n = 4 then w else s.args.arg4, arg5 := if n = 5 then w else s.args.arg5 }
      inputs := rest, reply := .accepted }) ∧
  ∀ (i : Instr) (s t : State), exec i s = .next t → t.args = s.args

/-- R41: reserved offsets read as zero; writes to them and to read-only registers are accepted and ignored. -/
def Obligations.ReservedAndReadOnlyIgnoreWrites : Prop :=
  ∀ (s : State) (off : Nat) (rest : List Input) (w : Word), s.params.WellFormed → off % 4 = 0 →
    (0x040 ≤ off → off ≤ 0xFFC →
      s.inputs = .access { addr := s.params.base + off, bits := 32, dir := .read } :: rest →
      step s = .next ((s.setInputs rest).setReply (.data 0))) ∧
    ((0x040 ≤ off ∧ off ≤ 0xFFC) ∨ off = 0x000 ∨ (0x028 ≤ off ∧ off ≤ 0x03C) →
      s.inputs = .access { addr := s.params.base + off, bits := 32, dir := .write w } :: rest →
      step s = .next ((s.setInputs rest).setReply .accepted))

/-- R64, R67: an OPMEM word written by the host reads as written, and every other word as before. -/
def Obligations.OpmemWriteThenRead : Prop :=
  ∀ (s : State) (k j : Nat) (v : Word) (rest : List Input), s.params.WellFormed → s.busy = false →
    k < s.params.nOpmem → j < s.params.nOpmem →
    s.inputs = .access { addr := s.params.base + (0x1000 + 4 * k), bits := 32, dir := .write v } ::
      .access { addr := s.params.base + (0x1000 + 4 * j), bits := 32, dir := .read } :: rest →
    ∃ m : Memory, core.run 2 s = .next { s with
        opmem := m, inputs := rest, reply := .data (if j = k then v else s.opmem.read j) } ∧
      ∀ l, m.read l = if l = k then v else s.opmem.read l

/-- R67: no host read, and no poll of WAIT, changes anything but what the host is answered; nor does the arrival of a burst
(R62), whose beats then come one by one (R69). That the arrival is a step of its own is log 12, that a poll is one is log 1. -/
def Obligations.ReadsHaveNoSideEffect : Prop :=
  ∀ (s t : State) (rest : List Input), step s = .next t →
    ((∃ a : Access, a.dir = .read ∧ s.inputs = .access a :: rest) → t = (s.setInputs rest).setReply t.reply) ∧
    (s.inputs = .wait :: rest → t = (s.setInputs t.inputs).setReply t.reply) ∧
    ∀ beats, s.inputs = .burst beats :: rest → t = (s.setInputs t.inputs).setReply t.reply

/-- R181, R182: IRQ is CTRL.IE and DONE; a completion raises it exactly when IE is set; W1C of DONE and clearing IE lower it; a
dropped CMD write and a read do not change it. -/
def Obligations.InterruptIsDoneAndEnabled : Prop :=
  (∀ (i : Instr) (s t : State) (p : Pending), s.pending = some p → exec i s = .next t → t.pending = none →
    t.irq = s.ctrlIe) ∧
  (∀ (s : State) (w : Word), (s.writeStatus w).irq = (s.irq && !w.getLsbD 1)) ∧
  (∀ (s : State) (w : Word), w.getLsbD 0 = false → (s.writeCtrl w).irq = (w.getLsbD 1 && s.done)) ∧
  ∀ (s : State) (w : Word), (s.writeCmd w).irq = s.irq

/-! ### Reset and the Sampler -/

/-- R44: the registers after reset, a hardware reset and a soft reset. -/
def Obligations.ResetValuesOfRegisters : Prop :=
  AtResetValues State.reset ∧ ∀ s : State, AtResetValues s.hardReset ∧ AtResetValues s.softReset

/-- R201, R73: a hardware reset reaches the reset values from any state, abandons the pending command and leaves every OPMEM word
unspecified, under a tag that no word had before (log 4). -/
def Obligations.HardResetFromAnyState : Prop :=
  ∀ (s : State) (rest : List Input), s.Inv → s.inputs = .hardReset :: rest →
    ∃ t, step s = .next t ∧ AtResetValues t ∧ t.params = s.params ∧ t.inputs = rest ∧
      (∀ k, t.opmem.contentAt k = .free s.freeTag) ∧ ∀ k, s.opmem.contentAt k ≠ .free s.freeTag

/-- R202, R203: a soft reset keeps OPMEM, but for the share and scratch words of a GEN it abandons, which become unspecified. -/
def Obligations.SoftResetKeepsOpmem : Prop :=
  ∀ (s : State) (x : Input) (rest : List Input), s.params.WellFormed → SoftResets s x → s.inputs = x :: rest →
    ∃ t, step s = .next t ∧ AtResetValues t ∧ t.params = s.params ∧ t.inputs = rest ∧
      (s.runningGen = none → t.opmem = s.opmem) ∧
      ∀ g, s.runningGen = some g → ∀ k,
        (¬ g.shares.Holds k → ¬ g.scratch.Holds k → t.opmem.contentAt k = s.opmem.contentAt k) ∧
        (k < s.params.nOpmem → g.shares.Holds k ∨ g.scratch.Holds k → t.opmem.contentAt k = .free s.freeTag)

/-- R151, R204: a word of the Sampler is taken only by a running GEN that has passed its checks and needs one more sample, and only
when it is offered for the exchange in progress; any other word is used by no command (the exchange numbers are log 6). -/
def Obligations.SamplerWordsGoOnlyToAWaitingGen : Prop :=
  ∀ (s : State) (n : Nat) (w : Word) (rest : List Input), s.inputs = .sample n w :: rest →
    (AsksForSample s → n = s.exchange → step s = .next ((s.setInputs rest).takeWord w)) ∧
    (¬ (AsksForSample s ∧ n = s.exchange) → step s = .next (s.setInputs rest))

/-- R204: after a reset, in every state of every run, a word offered for the exchange that was in progress at the reset, or for an
earlier one, is used by no command, whatever GEN asks by then (the exchange numbers are log 6). -/
def Obligations.AbandonedExchangeIsNeverUsed : Prop :=
  ∀ (s t u : State) (x : Input) (rest : List Input) (k : Nat), s.params.WellFormed → s.inputs = x :: rest →
    x = .hardReset ∨ SoftResets s x → step s = .next t → core.run k t = .next u →
    ∀ (n : Nat) (w : Word) (later : List Input), n ≤ s.exchange → u.inputs = .sample n w :: later →
      step u = .next (u.setInputs later)

/-! ### Arithmetic -/

/-- R102: the long division with a 33-bit working remainder gives the exact remainder, for every nonzero divisor. -/
def Obligations.LongDivisionIsTheExactRemainder : Prop :=
  ∀ high low d : Word, d ≠ 0 → reduceLD high low d = reduce high low d ∧
    (reduceLD high low d).toNat = (high.toNat * 2 ^ 32 + low.toNat) % d.toNat

/-- R104. -/
def Obligations.ReduceRange : Prop :=
  ∀ high low d : Word, d ≠ 0 →
    (reduce high low d).toNat < d.toNat ∧ (reduce high low d).toNat ≤ 0xFFFFFFFE ∧
    (d = 1 → reduce high low d = 0) ∧ (high = 0 → low.toNat < d.toNat → reduce high low d = low)

/-- R124. -/
def Obligations.FieldLaws : Prop :=
  ∀ a b m : Word, m ≠ 0 →
    (fmul a b m).toNat < m.toNat ∧ (fadd a b m).toNat < m.toNat ∧
    fadd a b m = fadd b a m ∧ fmul a b m = fmul b a m ∧
    (fadd a 0 m).toNat = a.toNat % m.toNat ∧ (fmul a 1 m).toNat = a.toNat % m.toNat ∧
    fmul (a % m) b m = fmul a b m ∧ fadd (a % m) b m = fadd a b m

/-- R131. -/
def Obligations.HornerClosedForm : Prop :=
  ∀ (cs : List Word) (x m : Word), m ≠ 0 →
    (horner cs x m).toNat =
      (∑ j ∈ Finset.range cs.length, (cs.getD j 0).toNat * x.toNat ^ (cs.length - 1 - j)) % m.toNat ∧
    (horner cs x m).toNat < m.toNat

/-- R150: the first word whose shifted value is below max is accepted, and no modulo is taken. -/
def Obligations.SampleIsTheFirstWordBelowMax : Prop :=
  ∀ (max : Word) (shift : BitVec 5) (ws : List Word),
    (∀ v rest, sampleBounded max shift ws = some (v, rest) ↔
      ∃ rejected w, ws = rejected ++ w :: rest ∧ v.toNat = w.toNat / 2 ^ shift.toNat ∧ v.toNat < max.toNat ∧
        ∀ u ∈ rejected, max.toNat ≤ u.toNat / 2 ^ shift.toNat) ∧
    (sampleBounded max shift ws = none ↔ ∀ u ∈ ws, max.toNat ≤ u.toNat / 2 ^ shift.toNat)

/-! ### The machine as a whole -/

/-- The reset state is sound (its parameters: log 2; its OPMEM: log 4). -/
def Obligations.ResetStateIsSound : Prop := State.reset.Inv

/-- Every step from a sound state goes on (log 9), to a sound state: R27, R43, R170, legal parameters (log 2), OPMEM's canonical
form with free values under old tags (log 4), words drawn only for a running GEN (log 6). -/
def Obligations.EveryStepIsSafe : Prop := ∀ s : State, s.Inv → SafeStep s

/-- Log 9, which is the model's reading of the spec and no rule of it: no state stops the machine. Every pending word completes or
waits (R84, R96, R158, R179), every host access is answered (R61, R62, R66, R67), and a Sampler word or a reset is taken in any state
(R151, R201, R202). In a state that no run reaches FOLD with SM = 0 goes on as log 10 has it. -/
def Obligations.MachineNeverStops : Prop := ∀ s : State, ∃ t, step s = .next t

/-- R212: a slot of the Engine completes any pending command but a GEN, with DONE set; a GEN that stays pending has passed its
checks and lacks samples. That one slot is enough is log 1. -/
def Obligations.EngineSlotCompletesAllButGen : Prop :=
  ∀ (s t : State) (p : Pending), s.pending = some p → EngineNext s → step s = .next t →
    (decode p.cmd ≠ .ok .gen → t.busy = false ∧ t.pending = none ∧ t.done = true) ∧
    (t.pending ≠ none → decode p.cmd = .ok .gen ∧ p.genOps.Legal s.params.nOpmem ∧
      (p.genOps.samples s.drawn).length < p.genOps.samplesNeeded)

/-- R88: the pseudo-instruction FMUL, as the host's bus writes and its polling loop, from an idle machine: some steps later the
script is done, RESULT and the ARG registers hold what the rules say, and STATUS's error bits are as for a success. The Engine slot
between two polls of WAIT is log 1. -/
def Obligations.ScriptedFmulRunsToItsResult : Prop :=
  ∀ (s : State) (a b m : Word) (rest : List Input), s.params.WellFormed → s.Idle → m ≠ 0 →
    s.inputs = scriptInputs s.params [.fmul a b m] ++ rest →
    ∃ r : Word, r.toNat = (a.toNat * b.toNat) % m.toNat ∧
      ∃ k t, core.run k s = .next t ∧ t.inputs = rest ∧ t.Idle ∧ t.result = r ∧
        t.args = { s.args with arg0 := a, arg1 := b, arg2 := m } ∧ t.errcode = 0 ∧ t.done = true ∧
        t.err = s.err ∧ t.ovr = s.ovr ∧ t.opmem = s.opmem

/-- R140: over the bus, BEGIN, one FOLD for each coefficient and CURRES leave in RESULT what EVAL over the same coefficients in
OPMEM leaves, and both are Horner's value. The Engine slot between two polls of WAIT is log 1. -/
def Obligations.BulkAndStreamingAgree : Prop :=
  ∀ (s : State) (cs : List Word) (cbase x m : Word), s.params.WellFormed → s.Idle → m ≠ 0 →
    (cs = [] ∨ cbase.toNat + cs.length ≤ s.params.nOpmem) → cs = s.opmem.readRegion ⟨cbase.toNat, cs.length⟩ →
    ∃ k₁ k₂ t₁ t₂,
      core.run k₁ (s.setInputs (scriptInputs s.params ([.begin x m] ++ cs.map .fold ++ [.curres]))) = .next t₁ ∧
      core.run k₂ (s.setInputs (scriptInputs s.params [.eval (BitVec.ofNat 32 cs.length) cbase x m])) = .next t₂ ∧
      t₁.inputs = [] ∧ t₁.Idle ∧ t₂.inputs = [] ∧ t₂.Idle ∧
      t₁.result = horner cs x m ∧ t₂.result = horner cs x m
end

