-- ==== Sys2Proof/Laws/State.lean ====
section
/-! SUPPORT. One lemma per field per named update of Machine/Ops.lean, so that no proof unfolds a record update. -/

namespace Sys2Proof.Machine

variable (s : State)

@[simp] theorem State.setResult_ctrlIe (w : Word) : (s.setResult w).ctrlIe = s.ctrlIe := rfl
@[simp] theorem State.setResult_ctrlShift (w : Word) : (s.setResult w).ctrlShift = s.ctrlShift := rfl
@[simp] theorem State.setResult_busy (w : Word) : (s.setResult w).busy = s.busy := rfl
@[simp] theorem State.setResult_done (w : Word) : (s.setResult w).done = s.done := rfl
@[simp] theorem State.setResult_err (w : Word) : (s.setResult w).err = s.err := rfl
@[simp] theorem State.setResult_ovr (w : Word) : (s.setResult w).ovr = s.ovr := rfl
@[simp] theorem State.setResult_errcode (w : Word) : (s.setResult w).errcode = s.errcode := rfl
@[simp] theorem State.setResult_sstate (w : Word) : (s.setResult w).sstate = s.sstate := rfl
@[simp] theorem State.setResult_args (w : Word) : (s.setResult w).args = s.args := rfl
@[simp] theorem State.setResult_result (w : Word) : (s.setResult w).result = w := rfl
@[simp] theorem State.setResult_sacc (w : Word) : (s.setResult w).sacc = s.sacc := rfl
@[simp] theorem State.setResult_sx (w : Word) : (s.setResult w).sx = s.sx := rfl
@[simp] theorem State.setResult_sm (w : Word) : (s.setResult w).sm = s.sm := rfl
@[simp] theorem State.setResult_draws (w : Word) : (s.setResult w).draws = s.draws := rfl
@[simp] theorem State.setResult_opmem (w : Word) : (s.setResult w).opmem = s.opmem := rfl
@[simp] theorem State.setResult_pending (w : Word) : (s.setResult w).pending = s.pending := rfl
@[simp] theorem State.setResult_params (w : Word) : (s.setResult w).params = s.params := rfl
@[simp] theorem State.setResult_drawn (w : Word) : (s.setResult w).drawn = s.drawn := rfl
@[simp] theorem State.setResult_exchange (w : Word) : (s.setResult w).exchange = s.exchange := rfl
@[simp] theorem State.setResult_freeTag (w : Word) : (s.setResult w).freeTag = s.freeTag := rfl
@[simp] theorem State.setResult_inputs (w : Word) : (s.setResult w).inputs = s.inputs := rfl
@[simp] theorem State.setResult_reply (w : Word) : (s.setResult w).reply = s.reply := rfl

@[simp] theorem State.setStream_ctrlIe (a x m : Word) (st : SState) : (s.setStream a x m st).ctrlIe = s.ctrlIe := rfl
@[simp] theorem State.setStream_ctrlShift (a x m : Word) (st : SState) : (s.setStream a x m st).ctrlShift = s.ctrlShift := rfl
@[simp] theorem State.setStream_busy (a x m : Word) (st : SState) : (s.setStream a x m st).busy = s.busy := rfl
@[simp] theorem State.setStream_done (a x m : Word) (st : SState) : (s.setStream a x m st).done = s.done := rfl
@[simp] theorem State.setStream_err (a x m : Word) (st : SState) : (s.setStream a x m st).err = s.err := rfl
@[simp] theorem State.setStream_ovr (a x m : Word) (st : SState) : (s.setStream a x m st).ovr = s.ovr := rfl
@[simp] theorem State.setStream_errcode (a x m : Word) (st : SState) : (s.setStream a x m st).errcode = s.errcode := rfl
@[simp] theorem State.setStream_sstate (a x m : Word) (st : SState) : (s.setStream a x m st).sstate = st := rfl
@[simp] theorem State.setStream_args (a x m : Word) (st : SState) : (s.setStream a x m st).args = s.args := rfl
@[simp] theorem State.setStream_result (a x m : Word) (st : SState) : (s.setStream a x m st).result = s.result := rfl
@[simp] theorem State.setStream_sacc (a x m : Word) (st : SState) : (s.setStream a x m st).sacc = a := rfl
@[simp] theorem State.setStream_sx (a x m : Word) (st : SState) : (s.setStream a x m st).sx = x := rfl
@[simp] theorem State.setStream_sm (a x m : Word) (st : SState) : (s.setStream a x m st).sm = m := rfl
@[simp] theorem State.setStream_draws (a x m : Word) (st : SState) : (s.setStream a x m st).draws = s.draws := rfl
@[simp] theorem State.setStream_opmem (a x m : Word) (st : SState) : (s.setStream a x m st).opmem = s.opmem := rfl
@[simp] theorem State.setStream_pending (a x m : Word) (st : SState) : (s.setStream a x m st).pending = s.pending := rfl
@[simp] theorem State.setStream_params (a x m : Word) (st : SState) : (s.setStream a x m st).params = s.params := rfl
@[simp] theorem State.setStream_drawn (a x m : Word) (st : SState) : (s.setStream a x m st).drawn = s.drawn := rfl
@[simp] theorem State.setStream_exchange (a x m : Word) (st : SState) : (s.setStream a x m st).exchange = s.exchange := rfl
@[simp] theorem State.setStream_freeTag (a x m : Word) (st : SState) : (s.setStream a x m st).freeTag = s.freeTag := rfl
@[simp] theorem State.setStream_inputs (a x m : Word) (st : SState) : (s.setStream a x m st).inputs = s.inputs := rfl
@[simp] theorem State.setStream_reply (a x m : Word) (st : SState) : (s.setStream a x m st).reply = s.reply := rfl

@[simp] theorem State.setDraws_ctrlIe (w : Word) : (s.setDraws w).ctrlIe = s.ctrlIe := rfl
@[simp] theorem State.setDraws_ctrlShift (w : Word) : (s.setDraws w).ctrlShift = s.ctrlShift := rfl
@[simp] theorem State.setDraws_busy (w : Word) : (s.setDraws w).busy = s.busy := rfl
@[simp] theorem State.setDraws_done (w : Word) : (s.setDraws w).done = s.done := rfl
@[simp] theorem State.setDraws_err (w : Word) : (s.setDraws w).err = s.err := rfl
@[simp] theorem State.setDraws_ovr (w : Word) : (s.setDraws w).ovr = s.ovr := rfl
@[simp] theorem State.setDraws_errcode (w : Word) : (s.setDraws w).errcode = s.errcode := rfl
@[simp] theorem State.setDraws_sstate (w : Word) : (s.setDraws w).sstate = s.sstate := rfl
@[simp] theorem State.setDraws_args (w : Word) : (s.setDraws w).args = s.args := rfl
@[simp] theorem State.setDraws_result (w : Word) : (s.setDraws w).result = s.result := rfl
@[simp] theorem State.setDraws_sacc (w : Word) : (s.setDraws w).sacc = s.sacc := rfl
@[simp] theorem State.setDraws_sx (w : Word) : (s.setDraws w).sx = s.sx := rfl
@[simp] theorem State.setDraws_sm (w : Word) : (s.setDraws w).sm = s.sm := rfl
@[simp] theorem State.setDraws_draws (w : Word) : (s.setDraws w).draws = w := rfl
@[simp] theorem State.setDraws_opmem (w : Word) : (s.setDraws w).opmem = s.opmem := rfl
@[simp] theorem State.setDraws_pending (w : Word) : (s.setDraws w).pending = s.pending := rfl
@[simp] theorem State.setDraws_params (w : Word) : (s.setDraws w).params = s.params := rfl
@[simp] theorem State.setDraws_drawn (w : Word) : (s.setDraws w).drawn = s.drawn := rfl
@[simp] theorem State.setDraws_exchange (w : Word) : (s.setDraws w).exchange = s.exchange := rfl
@[simp] theorem State.setDraws_freeTag (w : Word) : (s.setDraws w).freeTag = s.freeTag := rfl
@[simp] theorem State.setDraws_inputs (w : Word) : (s.setDraws w).inputs = s.inputs := rfl
@[simp] theorem State.setDraws_reply (w : Word) : (s.setDraws w).reply = s.reply := rfl

@[simp] theorem State.setOpmem_ctrlIe (m : Memory) : (s.setOpmem m).ctrlIe = s.ctrlIe := rfl
@[simp] theorem State.setOpmem_ctrlShift (m : Memory) : (s.setOpmem m).ctrlShift = s.ctrlShift := rfl
@[simp] theorem State.setOpmem_busy (m : Memory) : (s.setOpmem m).busy = s.busy := rfl
@[simp] theorem State.setOpmem_done (m : Memory) : (s.setOpmem m).done = s.done := rfl
@[simp] theorem State.setOpmem_err (m : Memory) : (s.setOpmem m).err = s.err := rfl
@[simp] theorem State.setOpmem_ovr (m : Memory) : (s.setOpmem m).ovr = s.ovr := rfl
@[simp] theorem State.setOpmem_errcode (m : Memory) : (s.setOpmem m).errcode = s.errcode := rfl
@[simp] theorem State.setOpmem_sstate (m : Memory) : (s.setOpmem m).sstate = s.sstate := rfl
@[simp] theorem State.setOpmem_args (m : Memory) : (s.setOpmem m).args = s.args := rfl
@[simp] theorem State.setOpmem_result (m : Memory) : (s.setOpmem m).result = s.result := rfl
@[simp] theorem State.setOpmem_sacc (m : Memory) : (s.setOpmem m).sacc = s.sacc := rfl
@[simp] theorem State.setOpmem_sx (m : Memory) : (s.setOpmem m).sx = s.sx := rfl
@[simp] theorem State.setOpmem_sm (m : Memory) : (s.setOpmem m).sm = s.sm := rfl
@[simp] theorem State.setOpmem_draws (m : Memory) : (s.setOpmem m).draws = s.draws := rfl
@[simp] theorem State.setOpmem_opmem (m : Memory) : (s.setOpmem m).opmem = m := rfl
@[simp] theorem State.setOpmem_pending (m : Memory) : (s.setOpmem m).pending = s.pending := rfl
@[simp] theorem State.setOpmem_params (m : Memory) : (s.setOpmem m).params = s.params := rfl
@[simp] theorem State.setOpmem_drawn (m : Memory) : (s.setOpmem m).drawn = s.drawn := rfl
@[simp] theorem State.setOpmem_exchange (m : Memory) : (s.setOpmem m).exchange = s.exchange := rfl
@[simp] theorem State.setOpmem_freeTag (m : Memory) : (s.setOpmem m).freeTag = s.freeTag := rfl
@[simp] theorem State.setOpmem_inputs (m : Memory) : (s.setOpmem m).inputs = s.inputs := rfl
@[simp] theorem State.setOpmem_reply (m : Memory) : (s.setOpmem m).reply = s.reply := rfl

@[simp] theorem State.setArgs_ctrlIe (a : Args) : (s.setArgs a).ctrlIe = s.ctrlIe := rfl
@[simp] theorem State.setArgs_ctrlShift (a : Args) : (s.setArgs a).ctrlShift = s.ctrlShift := rfl
@[simp] theorem State.setArgs_busy (a : Args) : (s.setArgs a).busy = s.busy := rfl
@[simp] theorem State.setArgs_done (a : Args) : (s.setArgs a).done = s.done := rfl
@[simp] theorem State.setArgs_err (a : Args) : (s.setArgs a).err = s.err := rfl
@[simp] theorem State.setArgs_ovr (a : Args) : (s.setArgs a).ovr = s.ovr := rfl
@[simp] theorem State.setArgs_errcode (a : Args) : (s.setArgs a).errcode = s.errcode := rfl
@[simp] theorem State.setArgs_sstate (a : Args) : (s.setArgs a).sstate = s.sstate := rfl
@[simp] theorem State.setArgs_args (a : Args) : (s.setArgs a).args = a := rfl
@[simp] theorem State.setArgs_result (a : Args) : (s.setArgs a).result = s.result := rfl
@[simp] theorem State.setArgs_sacc (a : Args) : (s.setArgs a).sacc = s.sacc := rfl
@[simp] theorem State.setArgs_sx (a : Args) : (s.setArgs a).sx = s.sx := rfl
@[simp] theorem State.setArgs_sm (a : Args) : (s.setArgs a).sm = s.sm := rfl
@[simp] theorem State.setArgs_draws (a : Args) : (s.setArgs a).draws = s.draws := rfl
@[simp] theorem State.setArgs_opmem (a : Args) : (s.setArgs a).opmem = s.opmem := rfl
@[simp] theorem State.setArgs_pending (a : Args) : (s.setArgs a).pending = s.pending := rfl
@[simp] theorem State.setArgs_params (a : Args) : (s.setArgs a).params = s.params := rfl
@[simp] theorem State.setArgs_drawn (a : Args) : (s.setArgs a).drawn = s.drawn := rfl
@[simp] theorem State.setArgs_exchange (a : Args) : (s.setArgs a).exchange = s.exchange := rfl
@[simp] theorem State.setArgs_freeTag (a : Args) : (s.setArgs a).freeTag = s.freeTag := rfl
@[simp] theorem State.setArgs_inputs (a : Args) : (s.setArgs a).inputs = s.inputs := rfl
@[simp] theorem State.setArgs_reply (a : Args) : (s.setArgs a).reply = s.reply := rfl

@[simp] theorem State.setCtrl_ctrlIe (b : Bool) (n : BitVec 5) : (s.setCtrl b n).ctrlIe = b := rfl
@[simp] theorem State.setCtrl_ctrlShift (b : Bool) (n : BitVec 5) : (s.setCtrl b n).ctrlShift = n := rfl
@[simp] theorem State.setCtrl_busy (b : Bool) (n : BitVec 5) : (s.setCtrl b n).busy = s.busy := rfl
@[simp] theorem State.setCtrl_done (b : Bool) (n : BitVec 5) : (s.setCtrl b n).done = s.done := rfl
@[simp] theorem State.setCtrl_err (b : Bool) (n : BitVec 5) : (s.setCtrl b n).err = s.err := rfl
@[simp] theorem State.setCtrl_ovr (b : Bool) (n : BitVec 5) : (s.setCtrl b n).ovr = s.ovr := rfl
@[simp] theorem State.setCtrl_errcode (b : Bool) (n : BitVec 5) : (s.setCtrl b n).errcode = s.errcode := rfl
@[simp] theorem State.setCtrl_sstate (b : Bool) (n : BitVec 5) : (s.setCtrl b n).sstate = s.sstate := rfl
@[simp] theorem State.setCtrl_args (b : Bool) (n : BitVec 5) : (s.setCtrl b n).args = s.args := rfl
@[simp] theorem State.setCtrl_result (b : Bool) (n : BitVec 5) : (s.setCtrl b n).result = s.result := rfl
@[simp] theorem State.setCtrl_sacc (b : Bool) (n : BitVec 5) : (s.setCtrl b n).sacc = s.sacc := rfl
@[simp] theorem State.setCtrl_sx (b : Bool) (n : BitVec 5) : (s.setCtrl b n).sx = s.sx := rfl
@[simp] theorem State.setCtrl_sm (b : Bool) (n : BitVec 5) : (s.setCtrl b n).sm = s.sm := rfl
@[simp] theorem State.setCtrl_draws (b : Bool) (n : BitVec 5) : (s.setCtrl b n).draws = s.draws := rfl
@[simp] theorem State.setCtrl_opmem (b : Bool) (n : BitVec 5) : (s.setCtrl b n).opmem = s.opmem := rfl
@[simp] theorem State.setCtrl_pending (b : Bool) (n : BitVec 5) : (s.setCtrl b n).pending = s.pending := rfl
@[simp] theorem State.setCtrl_params (b : Bool) (n : BitVec 5) : (s.setCtrl b n).params = s.params := rfl
@[simp] theorem State.setCtrl_drawn (b : Bool) (n : BitVec 5) : (s.setCtrl b n).drawn = s.drawn := rfl
@[simp] theorem State.setCtrl_exchange (b : Bool) (n : BitVec 5) : (s.setCtrl b n).exchange = s.exchange := rfl
@[simp] theorem State.setCtrl_freeTag (b : Bool) (n : BitVec 5) : (s.setCtrl b n).freeTag = s.freeTag := rfl
@[simp] theorem State.setCtrl_inputs (b : Bool) (n : BitVec 5) : (s.setCtrl b n).inputs = s.inputs := rfl
@[simp] theorem State.setCtrl_reply (b : Bool) (n : BitVec 5) : (s.setCtrl b n).reply = s.reply := rfl

@[simp] theorem State.setOvr_ctrlIe : (s.setOvr).ctrlIe = s.ctrlIe := rfl
@[simp] theorem State.setOvr_ctrlShift : (s.setOvr).ctrlShift = s.ctrlShift := rfl
@[simp] theorem State.setOvr_busy : (s.setOvr).busy = s.busy := rfl
@[simp] theorem State.setOvr_done : (s.setOvr).done = s.done := rfl
@[simp] theorem State.setOvr_err : (s.setOvr).err = s.err := rfl
@[simp] theorem State.setOvr_ovr : (s.setOvr).ovr = true := rfl
@[simp] theorem State.setOvr_errcode : (s.setOvr).errcode = s.errcode := rfl
@[simp] theorem State.setOvr_sstate : (s.setOvr).sstate = s.sstate := rfl
@[simp] theorem State.setOvr_args : (s.setOvr).args = s.args := rfl
@[simp] theorem State.setOvr_result : (s.setOvr).result = s.result := rfl
@[simp] theorem State.setOvr_sacc : (s.setOvr).sacc = s.sacc := rfl
@[simp] theorem State.setOvr_sx : (s.setOvr).sx = s.sx := rfl
@[simp] theorem State.setOvr_sm : (s.setOvr).sm = s.sm := rfl
@[simp] theorem State.setOvr_draws : (s.setOvr).draws = s.draws := rfl
@[simp] theorem State.setOvr_opmem : (s.setOvr).opmem = s.opmem := rfl
@[simp] theorem State.setOvr_pending : (s.setOvr).pending = s.pending := rfl
@[simp] theorem State.setOvr_params : (s.setOvr).params = s.params := rfl
@[simp] theorem State.setOvr_drawn : (s.setOvr).drawn = s.drawn := rfl
@[simp] theorem State.setOvr_exchange : (s.setOvr).exchange = s.exchange := rfl
@[simp] theorem State.setOvr_freeTag : (s.setOvr).freeTag = s.freeTag := rfl
@[simp] theorem State.setOvr_inputs : (s.setOvr).inputs = s.inputs := rfl
@[simp] theorem State.setOvr_reply : (s.setOvr).reply = s.reply := rfl

@[simp] theorem State.setDrawn_ctrlIe (l : List Word) : (s.setDrawn l).ctrlIe = s.ctrlIe := rfl
@[simp] theorem State.setDrawn_ctrlShift (l : List Word) : (s.setDrawn l).ctrlShift = s.ctrlShift := rfl
@[simp] theorem State.setDrawn_busy (l : List Word) : (s.setDrawn l).busy = s.busy := rfl
@[simp] theorem State.setDrawn_done (l : List Word) : (s.setDrawn l).done = s.done := rfl
@[simp] theorem State.setDrawn_err (l : List Word) : (s.setDrawn l).err = s.err := rfl
@[simp] theorem State.setDrawn_ovr (l : List Word) : (s.setDrawn l).ovr = s.ovr := rfl
@[simp] theorem State.setDrawn_errcode (l : List Word) : (s.setDrawn l).errcode = s.errcode := rfl
@[simp] theorem State.setDrawn_sstate (l : List Word) : (s.setDrawn l).sstate = s.sstate := rfl
@[simp] theorem State.setDrawn_args (l : List Word) : (s.setDrawn l).args = s.args := rfl
@[simp] theorem State.setDrawn_result (l : List Word) : (s.setDrawn l).result = s.result := rfl
@[simp] theorem State.setDrawn_sacc (l : List Word) : (s.setDrawn l).sacc = s.sacc := rfl
@[simp] theorem State.setDrawn_sx (l : List Word) : (s.setDrawn l).sx = s.sx := rfl
@[simp] theorem State.setDrawn_sm (l : List Word) : (s.setDrawn l).sm = s.sm := rfl
@[simp] theorem State.setDrawn_draws (l : List Word) : (s.setDrawn l).draws = s.draws := rfl
@[simp] theorem State.setDrawn_opmem (l : List Word) : (s.setDrawn l).opmem = s.opmem := rfl
@[simp] theorem State.setDrawn_pending (l : List Word) : (s.setDrawn l).pending = s.pending := rfl
@[simp] theorem State.setDrawn_params (l : List Word) : (s.setDrawn l).params = s.params := rfl
@[simp] theorem State.setDrawn_drawn (l : List Word) : (s.setDrawn l).drawn = l := rfl
@[simp] theorem State.setDrawn_exchange (l : List Word) : (s.setDrawn l).exchange = s.exchange := rfl
@[simp] theorem State.setDrawn_freeTag (l : List Word) : (s.setDrawn l).freeTag = s.freeTag := rfl
@[simp] theorem State.setDrawn_inputs (l : List Word) : (s.setDrawn l).inputs = s.inputs := rfl
@[simp] theorem State.setDrawn_reply (l : List Word) : (s.setDrawn l).reply = s.reply := rfl

@[simp] theorem State.takeWord_ctrlIe (w : Word) : (s.takeWord w).ctrlIe = s.ctrlIe := rfl
@[simp] theorem State.takeWord_ctrlShift (w : Word) : (s.takeWord w).ctrlShift = s.ctrlShift := rfl
@[simp] theorem State.takeWord_busy (w : Word) : (s.takeWord w).busy = s.busy := rfl
@[simp] theorem State.takeWord_done (w : Word) : (s.takeWord w).done = s.done := rfl
@[simp] theorem State.takeWord_err (w : Word) : (s.takeWord w).err = s.err := rfl
@[simp] theorem State.takeWord_ovr (w : Word) : (s.takeWord w).ovr = s.ovr := rfl
@[simp] theorem State.takeWord_errcode (w : Word) : (s.takeWord w).errcode = s.errcode := rfl
@[simp] theorem State.takeWord_sstate (w : Word) : (s.takeWord w).sstate = s.sstate := rfl
@[simp] theorem State.takeWord_args (w : Word) : (s.takeWord w).args = s.args := rfl
@[simp] theorem State.takeWord_result (w : Word) : (s.takeWord w).result = s.result := rfl
@[simp] theorem State.takeWord_sacc (w : Word) : (s.takeWord w).sacc = s.sacc := rfl
@[simp] theorem State.takeWord_sx (w : Word) : (s.takeWord w).sx = s.sx := rfl
@[simp] theorem State.takeWord_sm (w : Word) : (s.takeWord w).sm = s.sm := rfl
@[simp] theorem State.takeWord_draws (w : Word) : (s.takeWord w).draws = s.draws := rfl
@[simp] theorem State.takeWord_opmem (w : Word) : (s.takeWord w).opmem = s.opmem := rfl
@[simp] theorem State.takeWord_pending (w : Word) : (s.takeWord w).pending = s.pending := rfl
@[simp] theorem State.takeWord_params (w : Word) : (s.takeWord w).params = s.params := rfl
@[simp] theorem State.takeWord_drawn (w : Word) : (s.takeWord w).drawn = s.drawn ++ [w] := rfl
@[simp] theorem State.takeWord_exchange (w : Word) : (s.takeWord w).exchange = s.exchange + 1 := rfl
@[simp] theorem State.takeWord_freeTag (w : Word) : (s.takeWord w).freeTag = s.freeTag := rfl
@[simp] theorem State.takeWord_inputs (w : Word) : (s.takeWord w).inputs = s.inputs := rfl
@[simp] theorem State.takeWord_reply (w : Word) : (s.takeWord w).reply = s.reply := rfl

@[simp] theorem State.setInputs_ctrlIe (l : List Input) : (s.setInputs l).ctrlIe = s.ctrlIe := rfl
@[simp] theorem State.setInputs_ctrlShift (l : List Input) : (s.setInputs l).ctrlShift = s.ctrlShift := rfl
@[simp] theorem State.setInputs_busy (l : List Input) : (s.setInputs l).busy = s.busy := rfl
@[simp] theorem State.setInputs_done (l : List Input) : (s.setInputs l).done = s.done := rfl
@[simp] theorem State.setInputs_err (l : List Input) : (s.setInputs l).err = s.err := rfl
@[simp] theorem State.setInputs_ovr (l : List Input) : (s.setInputs l).ovr = s.ovr := rfl
@[simp] theorem State.setInputs_errcode (l : List Input) : (s.setInputs l).errcode = s.errcode := rfl
@[simp] theorem State.setInputs_sstate (l : List Input) : (s.setInputs l).sstate = s.sstate := rfl
@[simp] theorem State.setInputs_args (l : List Input) : (s.setInputs l).args = s.args := rfl
@[simp] theorem State.setInputs_result (l : List Input) : (s.setInputs l).result = s.result := rfl
@[simp] theorem State.setInputs_sacc (l : List Input) : (s.setInputs l).sacc = s.sacc := rfl
@[simp] theorem State.setInputs_sx (l : List Input) : (s.setInputs l).sx = s.sx := rfl
@[simp] theorem State.setInputs_sm (l : List Input) : (s.setInputs l).sm = s.sm := rfl
@[simp] theorem State.setInputs_draws (l : List Input) : (s.setInputs l).draws = s.draws := rfl
@[simp] theorem State.setInputs_opmem (l : List Input) : (s.setInputs l).opmem = s.opmem := rfl
@[simp] theorem State.setInputs_pending (l : List Input) : (s.setInputs l).pending = s.pending := rfl
@[simp] theorem State.setInputs_params (l : List Input) : (s.setInputs l).params = s.params := rfl
@[simp] theorem State.setInputs_drawn (l : List Input) : (s.setInputs l).drawn = s.drawn := rfl
@[simp] theorem State.setInputs_exchange (l : List Input) : (s.setInputs l).exchange = s.exchange := rfl
@[simp] theorem State.setInputs_freeTag (l : List Input) : (s.setInputs l).freeTag = s.freeTag := rfl
@[simp] theorem State.setInputs_inputs (l : List Input) : (s.setInputs l).inputs = l := rfl
@[simp] theorem State.setInputs_reply (l : List Input) : (s.setInputs l).reply = s.reply := rfl

@[simp] theorem State.setReply_ctrlIe (r : Reply) : (s.setReply r).ctrlIe = s.ctrlIe := rfl
@[simp] theorem State.setReply_ctrlShift (r : Reply) : (s.setReply r).ctrlShift = s.ctrlShift := rfl
@[simp] theorem State.setReply_busy (r : Reply) : (s.setReply r).busy = s.busy := rfl
@[simp] theorem State.setReply_done (r : Reply) : (s.setReply r).done = s.done := rfl
@[simp] theorem State.setReply_err (r : Reply) : (s.setReply r).err = s.err := rfl
@[simp] theorem State.setReply_ovr (r : Reply) : (s.setReply r).ovr = s.ovr := rfl
@[simp] theorem State.setReply_errcode (r : Reply) : (s.setReply r).errcode = s.errcode := rfl
@[simp] theorem State.setReply_sstate (r : Reply) : (s.setReply r).sstate = s.sstate := rfl
@[simp] theorem State.setReply_args (r : Reply) : (s.setReply r).args = s.args := rfl
@[simp] theorem State.setReply_result (r : Reply) : (s.setReply r).result = s.result := rfl
@[simp] theorem State.setReply_sacc (r : Reply) : (s.setReply r).sacc = s.sacc := rfl
@[simp] theorem State.setReply_sx (r : Reply) : (s.setReply r).sx = s.sx := rfl
@[simp] theorem State.setReply_sm (r : Reply) : (s.setReply r).sm = s.sm := rfl
@[simp] theorem State.setReply_draws (r : Reply) : (s.setReply r).draws = s.draws := rfl
@[simp] theorem State.setReply_opmem (r : Reply) : (s.setReply r).opmem = s.opmem := rfl
@[simp] theorem State.setReply_pending (r : Reply) : (s.setReply r).pending = s.pending := rfl
@[simp] theorem State.setReply_params (r : Reply) : (s.setReply r).params = s.params := rfl
@[simp] theorem State.setReply_drawn (r : Reply) : (s.setReply r).drawn = s.drawn := rfl
@[simp] theorem State.setReply_exchange (r : Reply) : (s.setReply r).exchange = s.exchange := rfl
@[simp] theorem State.setReply_freeTag (r : Reply) : (s.setReply r).freeTag = s.freeTag := rfl
@[simp] theorem State.setReply_inputs (r : Reply) : (s.setReply r).inputs = s.inputs := rfl
@[simp] theorem State.setReply_reply (r : Reply) : (s.setReply r).reply = r := rfl

@[simp] theorem State.issue_ctrlIe (w : Word) : (s.issue w).ctrlIe = s.ctrlIe := rfl
@[simp] theorem State.issue_ctrlShift (w : Word) : (s.issue w).ctrlShift = s.ctrlShift := rfl
@[simp] theorem State.issue_busy (w : Word) : (s.issue w).busy = true := rfl
@[simp] theorem State.issue_done (w : Word) : (s.issue w).done = s.done := rfl
@[simp] theorem State.issue_err (w : Word) : (s.issue w).err = s.err := rfl
@[simp] theorem State.issue_ovr (w : Word) : (s.issue w).ovr = s.ovr := rfl
@[simp] theorem State.issue_errcode (w : Word) : (s.issue w).errcode = s.errcode := rfl
@[simp] theorem State.issue_sstate (w : Word) : (s.issue w).sstate = s.sstate := rfl
@[simp] theorem State.issue_args (w : Word) : (s.issue w).args = s.args := rfl
@[simp] theorem State.issue_result (w : Word) : (s.issue w).result = s.result := rfl
@[simp] theorem State.issue_sacc (w : Word) : (s.issue w).sacc = s.sacc := rfl
@[simp] theorem State.issue_sx (w : Word) : (s.issue w).sx = s.sx := rfl
@[simp] theorem State.issue_sm (w : Word) : (s.issue w).sm = s.sm := rfl
@[simp] theorem State.issue_draws (w : Word) : (s.issue w).draws = s.draws := rfl
@[simp] theorem State.issue_opmem (w : Word) : (s.issue w).opmem = s.opmem := rfl
@[simp] theorem State.issue_pending (w : Word) : (s.issue w).pending = some ⟨w, s.args, s.ctrlShift⟩ := rfl
@[simp] theorem State.issue_params (w : Word) : (s.issue w).params = s.params := rfl
@[simp] theorem State.issue_drawn (w : Word) : (s.issue w).drawn = [] := rfl
@[simp] theorem State.issue_exchange (w : Word) : (s.issue w).exchange = s.exchange := rfl
@[simp] theorem State.issue_freeTag (w : Word) : (s.issue w).freeTag = s.freeTag := rfl
@[simp] theorem State.issue_inputs (w : Word) : (s.issue w).inputs = s.inputs := rfl
@[simp] theorem State.issue_reply (w : Word) : (s.issue w).reply = s.reply := rfl

@[simp] theorem State.complete_ctrlIe : (s.complete).ctrlIe = s.ctrlIe := rfl
@[simp] theorem State.complete_ctrlShift : (s.complete).ctrlShift = s.ctrlShift := rfl
@[simp] theorem State.complete_busy : (s.complete).busy = false := rfl
@[simp] theorem State.complete_done : (s.complete).done = true := rfl
@[simp] theorem State.complete_err : (s.complete).err = s.err := rfl
@[simp] theorem State.complete_ovr : (s.complete).ovr = s.ovr := rfl
@[simp] theorem State.complete_errcode : (s.complete).errcode = 0 := rfl
@[simp] theorem State.complete_sstate : (s.complete).sstate = s.sstate := rfl
@[simp] theorem State.complete_args : (s.complete).args = s.args := rfl
@[simp] theorem State.complete_result : (s.complete).result = s.result := rfl
@[simp] theorem State.complete_sacc : (s.complete).sacc = s.sacc := rfl
@[simp] theorem State.complete_sx : (s.complete).sx = s.sx := rfl
@[simp] theorem State.complete_sm : (s.complete).sm = s.sm := rfl
@[simp] theorem State.complete_draws : (s.complete).draws = s.draws := rfl
@[simp] theorem State.complete_opmem : (s.complete).opmem = s.opmem := rfl
@[simp] theorem State.complete_pending : (s.complete).pending = none := rfl
@[simp] theorem State.complete_params : (s.complete).params = s.params := rfl
@[simp] theorem State.complete_drawn : (s.complete).drawn = [] := rfl
@[simp] theorem State.complete_exchange : (s.complete).exchange = s.exchange := rfl
@[simp] theorem State.complete_freeTag : (s.complete).freeTag = s.freeTag := rfl
@[simp] theorem State.complete_inputs : (s.complete).inputs = s.inputs := rfl
@[simp] theorem State.complete_reply : (s.complete).reply = s.reply := rfl

@[simp] theorem State.fail_ctrlIe (e : ErrorCode) : (s.fail e).ctrlIe = s.ctrlIe := rfl
@[simp] theorem State.fail_ctrlShift (e : ErrorCode) : (s.fail e).ctrlShift = s.ctrlShift := rfl
@[simp] theorem State.fail_busy (e : ErrorCode) : (s.fail e).busy = false := rfl
@[simp] theorem State.fail_done (e : ErrorCode) : (s.fail e).done = true := rfl
@[simp] theorem State.fail_err (e : ErrorCode) : (s.fail e).err = true := rfl
@[simp] theorem State.fail_ovr (e : ErrorCode) : (s.fail e).ovr = s.ovr := rfl
@[simp] theorem State.fail_errcode (e : ErrorCode) : (s.fail e).errcode = e.code := rfl
@[simp] theorem State.fail_sstate (e : ErrorCode) : (s.fail e).sstate = s.sstate := rfl
@[simp] theorem State.fail_args (e : ErrorCode) : (s.fail e).args = s.args := rfl
@[simp] theorem State.fail_result (e : ErrorCode) : (s.fail e).result = s.result := rfl
@[simp] theorem State.fail_sacc (e : ErrorCode) : (s.fail e).sacc = s.sacc := rfl
@[simp] theorem State.fail_sx (e : ErrorCode) : (s.fail e).sx = s.sx := rfl
@[simp] theorem State.fail_sm (e : ErrorCode) : (s.fail e).sm = s.sm := rfl
@[simp] theorem State.fail_draws (e : ErrorCode) : (s.fail e).draws = s.draws := rfl
@[simp] theorem State.fail_opmem (e : ErrorCode) : (s.fail e).opmem = s.opmem := rfl
@[simp] theorem State.fail_pending (e : ErrorCode) : (s.fail e).pending = none := rfl
@[simp] theorem State.fail_params (e : ErrorCode) : (s.fail e).params = s.params := rfl
@[simp] theorem State.fail_drawn (e : ErrorCode) : (s.fail e).drawn = [] := rfl
@[simp] theorem State.fail_exchange (e : ErrorCode) : (s.fail e).exchange = s.exchange := rfl
@[simp] theorem State.fail_freeTag (e : ErrorCode) : (s.fail e).freeTag = s.freeTag := rfl
@[simp] theorem State.fail_inputs (e : ErrorCode) : (s.fail e).inputs = s.inputs := rfl
@[simp] theorem State.fail_reply (e : ErrorCode) : (s.fail e).reply = s.reply := rfl

@[simp] theorem State.writeStatus_ctrlIe (w : Word) : (s.writeStatus w).ctrlIe = s.ctrlIe := rfl
@[simp] theorem State.writeStatus_ctrlShift (w : Word) : (s.writeStatus w).ctrlShift = s.ctrlShift := rfl
@[simp] theorem State.writeStatus_busy (w : Word) : (s.writeStatus w).busy = s.busy := rfl
@[simp] theorem State.writeStatus_done (w : Word) : (s.writeStatus w).done = w1c s.done w 1 := rfl
@[simp] theorem State.writeStatus_err (w : Word) : (s.writeStatus w).err = w1c s.err w 2 := rfl
@[simp] theorem State.writeStatus_ovr (w : Word) : (s.writeStatus w).ovr = w1c s.ovr w 3 := rfl
@[simp] theorem State.writeStatus_errcode (w : Word) : (s.writeStatus w).errcode = s.errcode := rfl
@[simp] theorem State.writeStatus_sstate (w : Word) : (s.writeStatus w).sstate = s.sstate := rfl
@[simp] theorem State.writeStatus_args (w : Word) : (s.writeStatus w).args = s.args := rfl
@[simp] theorem State.writeStatus_result (w : Word) : (s.writeStatus w).result = s.result := rfl
@[simp] theorem State.writeStatus_sacc (w : Word) : (s.writeStatus w).sacc = s.sacc := rfl
@[simp] theorem State.writeStatus_sx (w : Word) : (s.writeStatus w).sx = s.sx := rfl
@[simp] theorem State.writeStatus_sm (w : Word) : (s.writeStatus w).sm = s.sm := rfl
@[simp] theorem State.writeStatus_draws (w : Word) : (s.writeStatus w).draws = s.draws := rfl
@[simp] theorem State.writeStatus_opmem (w : Word) : (s.writeStatus w).opmem = s.opmem := rfl
@[simp] theorem State.writeStatus_pending (w : Word) : (s.writeStatus w).pending = s.pending := rfl
@[simp] theorem State.writeStatus_params (w : Word) : (s.writeStatus w).params = s.params := rfl
@[simp] theorem State.writeStatus_drawn (w : Word) : (s.writeStatus w).drawn = s.drawn := rfl
@[simp] theorem State.writeStatus_exchange (w : Word) : (s.writeStatus w).exchange = s.exchange := rfl
@[simp] theorem State.writeStatus_freeTag (w : Word) : (s.writeStatus w).freeTag = s.freeTag := rfl
@[simp] theorem State.writeStatus_inputs (w : Word) : (s.writeStatus w).inputs = s.inputs := rfl
@[simp] theorem State.writeStatus_reply (w : Word) : (s.writeStatus w).reply = s.reply := rfl

end Sys2Proof.Machine
end

