-- ==== Sys2Proof/Laws/Bus.lean ====
section
/-! SUPPORT. What a host access of the window does: address decode of legal parameters, and the step of one access. -/

namespace Sys2Proof.Machine

/-- A legal BASE is a multiple of 4 (R9). -/
theorem base_mod {p : Params} (h : p.WellFormed) : p.base % 4 = 0 := by
  obtain ⟨h1, h2, h3⟩ := h
  have : 4 ∣ p.windowSpan := by
    unfold Params.windowSpan
    have hl : 1 ≤ Nat.log2 (p.windowBytes - 1) := by
      rw [Nat.le_log2 (by unfold Params.windowBytes; omega)]
      unfold Params.windowBytes; omega
    exact (by norm_num : (4:ℕ) = 2^2) ▸ pow_dvd_pow 2 (by omega)
  have := Nat.dvd_trans this (Nat.dvd_of_mod_eq_zero h3)
  omega

/-- An offset below 0x1000 is a register or reserved (R61). -/
theorem place_low {p : Params} {off : Nat} (h : off < 0x1000) : place p (p.base + off) =
   (match regAt off with | some r => .reg r | none => .reserved) := by
  cases hr : regAt off <;> simp [place, h, hr]

/-- Offset `0x1000 + 4*k` is OPMEM word `k` (R60). -/
theorem place_opmem {p : Params} {k : Nat} (h : k < p.nOpmem) : place p (p.base + (0x1000 + 4*k)) = .opmem k := by
  unfold place
  have h1 : ¬ (p.base + (0x1000 + 4*k) < p.base) := by omega
  have h2 : p.base + (0x1000 + 4*k) - p.base = 0x1000 + 4*k := by omega
  have h3 : ¬ (0x1000 + 4*k < 0x1000) := by omega
  have h4 : 0x1000 + 4*k < p.windowBytes := by unfold Params.windowBytes; omega
  simp only [h1, if_false, h2, h3, h4, if_true]
  congr 1; omega

/-- The window test is whether some byte of the access is in the window (R60). -/
theorem Access.meets_iff {p : Params} {a : Access} : a.meets p = true ↔ a.InWindow p := by
  rw [Access.meets, Bool.and_eq_true, decide_eq_true_iff, decide_eq_true_iff, Access.bytes, Params.windowBytes]
  constructor
  · rintro ⟨h1, h2⟩
    exact ⟨max a.addr p.base, by omega⟩
  · rintro ⟨j, h⟩
    omega

/-- The size and alignment test is R62's. -/
theorem Access.aligned32_iff {a : Access} : a.aligned32 = true ↔ a.bits = 32 ∧ a.addr % 4 = 0 := by
  simp [Access.aligned32]

/-- A 32-bit access at a word-aligned offset of the window. -/
theorem host_aligned {s : State} {off : Nat} {d : Direction} (hp : s.params.WellFormed)
    (h : off < s.params.windowBytes) (h4 : off % 4 = 0) :
    s.hostAccess ⟨s.params.base + off, 32, d⟩ = s.accessPlace (place s.params (s.params.base + off)) d := by
  have hb := base_mod hp
  have hc : Access.meets ⟨s.params.base + off, 32, d⟩ s.params = true :=
    Access.meets_iff.2 ⟨s.params.base + off, by unfold Params.windowBytes at h; dsimp only; omega⟩
  have ha : Access.aligned32 ⟨s.params.base + off, 32, d⟩ = true := Access.aligned32_iff.2 ⟨rfl, by dsimp only; omega⟩
  simp only [State.hostAccess, hc, ha, if_true]

/-- A 32-bit access at a word-aligned offset below 0x1000. -/
theorem host_low {s : State} {off : Nat} {d : Direction} (hp : s.params.WellFormed) (h : off < 0x1000) (h4 : off % 4 = 0) :
    s.hostAccess ⟨s.params.base + off, 32, d⟩ = s.accessPlace (match regAt off with | some r => .reg r | none => .reserved) d := by
  rw [host_aligned hp (by unfold Params.windowBytes; omega) h4, place_low h]

/-- A 32-bit access to OPMEM word `k`. -/
theorem host_opmem {s : State} {k : Nat} {d : Direction} (hp : s.params.WellFormed) (h : k < s.params.nOpmem) :
    s.hostAccess ⟨s.params.base + (0x1000 + 4*k), 32, d⟩ = s.accessPlace (.opmem k) d := by
  rw [host_aligned hp (by unfold Params.windowBytes; omega) (by omega), place_opmem h]

/-- A host access is one step. -/
theorem step_access {s : State} {a : Access} {rest : List Input} (h : s.inputs = .access a :: rest) :
    step s = .next ((s.setInputs rest).hostAccess a) := by simp [step, h, State.outside]

/-- Every register has a word-aligned offset below 0x1000, and is the register decoded there. -/
theorem regOffset_lt (r : Reg) : regOffset r < 0x1000 ∧ regOffset r % 4 = 0 ∧ regAt (regOffset r) = some r := by
  cases r <;> decide

/-- A 32-bit access to a register. -/
theorem host_reg {s : State} (r : Reg) {d : Direction} (hp : s.params.WellFormed) :
    s.hostAccess ⟨s.params.base + regOffset r, 32, d⟩ = s.accessPlace (.reg r) d := by
  obtain ⟨h1, h2, h3⟩ := regOffset_lt r
  rw [host_low hp h1 h2, h3]

/-- The step of a 32-bit access to a register. -/
theorem step_reg {s : State} (r : Reg) {d : Direction} {rest : List Input} (hp : s.params.WellFormed)
    (h : s.inputs = .access ⟨s.params.base + regOffset r, 32, d⟩ :: rest) :
    step s = .next ((s.setInputs rest).accessPlace (.reg r) d) := by
  rw [step_access h]
  exact congrArg _ (host_reg (s := s.setInputs rest) r hp)

/-- The step of a 32-bit access at a word-aligned offset below 0x1000. -/
theorem step_low {s : State} {off : Nat} {d : Direction} {rest : List Input} (hp : s.params.WellFormed) (h : off < 0x1000) (h4 : off % 4 = 0)
    (hi : s.inputs = .access ⟨s.params.base + off, 32, d⟩ :: rest) :
    step s = .next ((s.setInputs rest).accessPlace (match regAt off with | some r => .reg r | none => .reserved) d) := by
  rw [step_access hi]
  exact congrArg _ (host_low (s := s.setInputs rest) hp h h4)

/-- The step of a 32-bit access to OPMEM word `k`. -/
theorem step_opmem {s : State} {k : Nat} {d : Direction} {rest : List Input} (hp : s.params.WellFormed) (h : k < s.params.nOpmem)
    (hi : s.inputs = .access ⟨s.params.base + (0x1000 + 4*k), 32, d⟩ :: rest) :
    step s = .next ((s.setInputs rest).accessPlace (.opmem k) d) := by
  rw [step_access hi]
  exact congrArg _ (host_opmem (s := s.setInputs rest) hp h)

end Sys2Proof.Machine
end

