-- ==== Sys2Proof/Laws/Field.lean ====
section
/-! SUPPORT. The value of each arithmetic function as a natural number, for a nonzero modulus; proofs cite these and do not unfold
the bit vectors. -/

namespace Sys2Proof.Machine

theorem Word.toNat_pos {m : Word} (h : m ≠ 0) : 0 < m.toNat :=
  Nat.pos_of_ne_zero fun h0 => h (BitVec.eq_of_toNat_eq (by simpa using h0))

theorem reduce_toNat {d : Word} (h : d ≠ 0) (high low : Word) :
    (reduce high low d).toNat = (high.toNat * 2 ^ 32 + low.toNat) % d.toNat := by
  unfold reduce
  rw [BitVec.toNat_ofNat]
  exact Nat.mod_eq_of_lt (Nat.lt_trans (Nat.mod_lt _ (Word.toNat_pos h)) d.isLt)

theorem fmul_toNat {m : Word} (h : m ≠ 0) (a b : Word) : (fmul a b m).toNat = (a.toNat * b.toNat) % m.toNat := by
  have hab : a.toNat * b.toNat < 2 ^ 64 := by
    have := Nat.mul_lt_mul'' a.isLt b.isLt
    simpa using this
  unfold fmul
  rw [reduce_toNat h]
  congr 1
  simp only [BitVec.extractLsb'_toNat, BitVec.toNat_mul, BitVec.toNat_setWidth]
  have ha : a.toNat % 2 ^ 64 = a.toNat := Nat.mod_eq_of_lt (by have := a.isLt; omega)
  have hb : b.toNat % 2 ^ 64 = b.toNat := Nat.mod_eq_of_lt (by have := b.isLt; omega)
  rw [ha, hb, Nat.mod_eq_of_lt hab, Nat.shiftRight_eq_div_pow, Nat.shiftRight_zero]
  omega

theorem fadd_toNat {m : Word} (h : m ≠ 0) (a b : Word) : (fadd a b m).toNat = (a.toNat + b.toNat) % m.toNat := by
  have ha := a.isLt
  have hb := b.isLt
  unfold fadd
  rw [reduce_toNat h]
  congr 1
  simp only [BitVec.extractLsb'_toNat, BitVec.toNat_add, BitVec.toNat_setWidth, Nat.shiftRight_eq_div_pow]
  omega

theorem hornerStep_toNat {m : Word} (h : m ≠ 0) (r x c : Word) :
    (hornerStep r x c m).toNat = (r.toNat * x.toNat + c.toNat) % m.toNat := by
  rw [hornerStep, fadd_toNat h, fmul_toNat h, Nat.mod_add_mod]

theorem hornerStep_lt {m : Word} (h : m ≠ 0) (r x c : Word) : (hornerStep r x c m).toNat < m.toNat := by
  rw [hornerStep_toNat h]; exact Nat.mod_lt _ (Word.toNat_pos h)

theorem horner_nil (x m : Word) : horner [] x m = 0 := rfl

/-- The last coefficient of a sequence is folded last (R130). -/
theorem horner_concat (cs : List Word) (c x m : Word) :
    horner (cs ++ [c]) x m = hornerStep (horner cs x m) x c m := by
  simp [horner]

end Sys2Proof.Machine
end

