-- ==== Sys2Proof/Laws/Memory.lean ====
section
/-! SUPPORT. What the OPMEM operations of Machine/Ops.lean do: the read-after-write laws, which need no hypothesis, and that every
operation keeps the canonical form. -/

namespace Sys2Proof.Machine

theorem lookupCell_putCell (k : Nat) (c : Content) (l : List (Nat × Content)) (j : Nat) :
    lookupCell (putCell k c l) j = if j = k then some c else lookupCell l j := by
  induction l with
  | nil => by_cases h : k = j <;> simp [putCell, lookupCell, h, eq_comm]
  | cons e rest ih =>
    obtain ⟨a, d⟩ := e
    simp only [putCell]
    split
    · by_cases h : k = j <;> simp [lookupCell, h, eq_comm]
    · split
      · rename_i h; subst h
        by_cases h : k = j
        · simp [lookupCell, h]
        · simp [lookupCell, h, Ne.symm h]
      · simp only [lookupCell, ih]
        by_cases h : j = k <;> by_cases h' : a = j <;> simp_all

theorem lookupCell_erase (k : Nat) (l : List (Nat × Content)) (j : Nat) :
    lookupCell (l.filter (fun e => e.1 != k)) j = if j = k then none else lookupCell l j := by
  induction l with
  | nil => simp [lookupCell]
  | cons e rest ih =>
    obtain ⟨a, d⟩ := e
    by_cases hak : a = k <;> by_cases h : j = k <;> by_cases h' : a = j <;>
      simp_all [lookupCell]

/-- Word `k` holds what was put there; every other word holds what it held. -/
theorem Memory.contentAt_set (m : Memory) (k : Nat) (c : Content) (j : Nat) :
    (m.set k c).contentAt j = if j = k then c else m.contentAt j := by
  unfold Memory.contentAt Memory.set
  by_cases hc : c = .free m.epoch <;> by_cases hj : j = k <;>
    simp [hc, hj, lookupCell_putCell, lookupCell_erase]

/-- `OpMemWrite` then `OpMemRead` (R64). -/
theorem Memory.read_write (m : Memory) (k : Nat) (v : Word) (j : Nat) :
    (m.write k v).read j = if j = k then v else m.read j := by
  unfold Memory.read Memory.write
  rw [Memory.contentAt_set]
  by_cases h : j = k <;> simp [h, Content.value]

@[simp] theorem Memory.read_write_same (m : Memory) (k : Nat) (v : Word) : (m.write k v).read k = v := by
  simp [Memory.read_write]

theorem Memory.read_write_of_ne (m : Memory) {k j : Nat} (v : Word) (h : j ≠ k) : (m.write k v).read j = m.read j := by
  simp [Memory.read_write, h]

/-- A release makes exactly the listed words unspecified (R203). -/
theorem Memory.contentAt_release (m : Memory) (tag : Nat) (ks : List Nat) (j : Nat) :
    (m.release tag ks).contentAt j = if j ∈ ks then .free tag else m.contentAt j := by
  induction ks generalizing m with
  | nil => simp [Memory.release]
  | cons k ks ih =>
    show ((m.set k (.free tag)).release tag ks).contentAt j = _
    rw [ih, Memory.contentAt_set]
    by_cases h : j ∈ ks <;> by_cases h' : j = k <;> simp [h, h']

@[simp] theorem Memory.set_epoch (m : Memory) (k : Nat) (c : Content) : (m.set k c).epoch = m.epoch := rfl

@[simp] theorem Memory.write_epoch (m : Memory) (k : Nat) (v : Word) : (m.write k v).epoch = m.epoch := rfl

theorem Memory.release_epoch (m : Memory) (tag : Nat) (ks : List Nat) : (m.release tag ks).epoch = m.epoch := by
  induction ks generalizing m with
  | nil => rfl
  | cons k ks ih => exact (ih (m.set k (.free tag))).trans rfl

theorem mem_putCell {k : Nat} {c : Content} {l : List (Nat × Content)} {e : Nat × Content}
    (h : e ∈ putCell k c l) : e = (k, c) ∨ e ∈ l := by
  induction l with
  | nil => simpa [putCell] using h
  | cons d rest ih =>
    obtain ⟨a, d⟩ := d
    simp only [putCell] at h
    split at h
    · simpa using h
    · split at h
      · simp only [List.mem_cons] at h ⊢; tauto
      · simp only [List.mem_cons] at h ⊢
        rcases h with h | h
        · tauto
        · rcases ih h with h | h <;> tauto

/-- Every entry after a `set` is the new one or an old one: the shape of each invariant of the cells. -/
theorem Memory.mem_set {m : Memory} {k : Nat} {c : Content} {e : Nat × Content} (h : e ∈ (m.set k c).cells) :
    (e = (k, c) ∧ c ≠ .free m.epoch) ∨ e ∈ m.cells := by
  unfold Memory.set at h
  by_cases hc : c = .free m.epoch
  · simp only [hc, if_true] at h; exact .inr (List.mem_filter.1 h).1
  · simp only [hc, if_false] at h
    rcases mem_putCell h with h | h
    · exact .inl ⟨h, hc⟩
    · exact .inr h

theorem putCell_rising (k : Nat) (c : Content) {l : List (Nat × Content)}
    (h : l.Pairwise (fun a b => a.1 < b.1)) : (putCell k c l).Pairwise (fun a b => a.1 < b.1) := by
  induction l with
  | nil => simp [putCell]
  | cons d rest ih =>
    obtain ⟨a, d⟩ := d
    have hrest := (List.pairwise_cons.1 h).2
    have hhead := (List.pairwise_cons.1 h).1
    simp only [putCell]
    split
    · rename_i hk
      refine List.pairwise_cons.2 ⟨fun e he => ?_, h⟩
      rcases List.mem_cons.1 he with rfl | he
      · exact hk
      · exact Nat.lt_trans hk (hhead e he)
    · split
      · rename_i hk; subst hk; exact List.pairwise_cons.2 ⟨hhead, hrest⟩
      · refine List.pairwise_cons.2 ⟨fun e he => ?_, ih hrest⟩
        rcases mem_putCell he with rfl | he
        · show a < k; omega
        · exact hhead e he

/-- Every OPMEM operation keeps the canonical form. -/
theorem Memory.wf_set {m : Memory} (h : m.wf) (k : Nat) (c : Content) : (m.set k c).wf := by
  refine ⟨?_, fun e he => ?_⟩
  · unfold Memory.set
    by_cases hc : c = .free m.epoch
    · simp only [hc, if_true]; exact h.1.filter _
    · simp only [hc, if_false]; exact putCell_rising k c h.1
  · rcases Memory.mem_set he with ⟨rfl, hc⟩ | he
    · exact hc
    · exact h.2 e he

theorem Memory.wf_write {m : Memory} (h : m.wf) (k : Nat) (v : Word) : (m.write k v).wf := Memory.wf_set h k _

theorem Memory.wf_release {m : Memory} (h : m.wf) (tag : Nat) (ks : List Nat) : (m.release tag ks).wf := by
  induction ks generalizing m with
  | nil => exact h
  | cons k ks ih => exact ih (Memory.wf_set h k _)

theorem Memory.wf_empty (tag : Nat) : ({ epoch := tag, cells := [] } : Memory).wf := by
  simp [Memory.wf]

/-- A region's words, by index. -/
theorem Memory.readRegion_congr {m m' : Memory} {r : Region}
    (h : ∀ k, r.Holds k → m.read k = m'.read k) : m.readRegion r = m'.readRegion r := by
  unfold Memory.readRegion
  refine List.map_congr_left fun j hj => h _ ⟨by omega, ?_⟩
  have := List.mem_range.1 hj; omega

theorem Region.mem_existing {r : Region} {n k : Nat} : k ∈ r.existing n ↔ r.Holds k ∧ k < n := by
  unfold Region.existing Region.Holds
  simp only [List.mem_map, List.mem_range]
  constructor
  · rintro ⟨a, ha, rfl⟩; omega
  · rintro ⟨⟨h1, h2⟩, h3⟩; exact ⟨k - r.base, by omega, by omega⟩

theorem Region.inRange_iff {r : Region} {n : Nat} : r.inRange n = true ↔ r.len = 0 ∨ r.base + r.len ≤ n := by
  simp [Region.inRange]

/-- Two regions overlap exactly when some word lies in both (R65). -/
theorem Region.overlaps_iff {a b : Region} : a.overlaps b = true ↔ ∃ k, a.Holds k ∧ b.Holds k := by
  unfold Region.overlaps Region.Holds
  simp only [Bool.and_eq_true, bne_iff_ne, ne_eq, decide_eq_true_eq]
  constructor
  · rintro ⟨⟨⟨h1, h2⟩, h3⟩, h4⟩; exact ⟨max a.base b.base, by omega, by omega⟩
  · rintro ⟨k, h1, h2⟩; omega

end Sys2Proof.Machine
end

