-- ==== Sys2Proof/Laws/PerInstr.lean ====
section
/-! SUPPORT. Statements about every command as syntax: the family Encoding (30_encoding.md R80, R81, R83). -/

namespace Sys2Proof.Laws.Encoding

/-- The command's word has RSVD 0 and an assigned OPC, stands in the opcode table, and decodes to the command, as a word, from its
byte lanes, and from the table's bits. -/
def Statement (i : Instr) : Prop :=
  (CommandWord.ofWord (encode i)).wellFormed = true ∧
  (⟨i, 0xFFFFFFFF, encode i⟩ : OpcodeRow) ∈ opcodeTable ∧
  decode (encode i) = .ok i ∧
  decodeTableWord 32 (encode i).toNat = some i

theorem reduce : Statement .reduce := by unfold Statement; decide
theorem fmul : Statement .fmul := by unfold Statement; decide
theorem fadd : Statement .fadd := by unfold Statement; decide
theorem eval : Statement .eval := by unfold Statement; decide
theorem begin : Statement .begin := by unfold Statement; decide
theorem fold : Statement .fold := by unfold Statement; decide
theorem curres : Statement .curres := by unfold Statement; decide
theorem gen : Statement .gen := by unfold Statement; decide

end Sys2Proof.Laws.Encoding
end

