-- ==== Sys2Proof/Laws/Step.lean ====
section
/-! SUPPORT. What a command, an Engine slot and a step can do: each lemma says it once, and proofs cite it. -/

namespace Sys2Proof.Machine

theorem State.withCommand_some {s : State} {p : Pending} (h : s.pending = some p) (k : Pending → State) :
    s.withCommand k = .next (k p) := by simp [State.withCommand, h]

theorem State.withCommand_none {s : State} (h : s.pending = none) (k : Pending → State) :
    s.withCommand k = .next s := by simp [State.withCommand, h]

/-- What a pending command does, by instruction: fail with an error of its list (R178), write what its row of R45 lists and
complete, or, for GEN, wait. -/
inductive Effect (s : State) (p : Pending) : Instr → State → Prop where
  | failed (i : Instr) (e : ErrorCode) (he : e ≠ .illegalCommand) : Effect s p i (s.fail e)
  | result (i : Instr) (w : Word)
      (hi : i = .reduce ∨ i = .fmul ∨ i = .fadd ∨ i = .eval ∨ i = .curres) :
      Effect s p i (s.setResult w).complete
  | began (hm : p.beginOps.m ≠ 0) : Effect s p .begin (s.setStream 0 p.beginOps.x p.beginOps.m .begun).complete
  | folded (hst : s.sstate ≠ .uninit) (hm : s.sm ≠ 0) :
      Effect s p .fold (s.setStream (hornerStep s.sacc s.sx p.foldOp s.sm) s.sx s.sm .folded).complete
  | waits (hc : genCheck s.params.nOpmem p.genOps = none) (hr : genRun p.genOps s.opmem s.drawn = none) :
      Effect s p .gen s
  | shares (m : Memory) (rest : List Word) (hc : genCheck s.params.nOpmem p.genOps = none)
      (hr : genRun p.genOps s.opmem s.drawn = some (m, rest)) :
      Effect s p .gen
        ((s.setOpmem m).setDraws (BitVec.ofNat 32 (s.drawn.length - rest.length))).complete

theorem genCheck_ne_illegal {n : Nat} {g : GenOps} {e : ErrorCode} (h : genCheck n g = some e) :
    e ≠ .illegalCommand := by
  rintro rfl
  unfold genCheck at h
  repeat (split at h <;> try (simp at h; done))

/-- Every pending command goes on, with one of its effects. -/
theorem exec_effect {s : State} {p : Pending} (h : s.pending = some p) (i : Instr) :
    ∃ t, exec i s = .next t ∧ Effect s p i t := by
  cases i with
  | reduce =>
    refine ⟨_, State.withCommand_some h _, ?_⟩
    dsimp only; split
    · exact .failed _ _ (by simp)
    · exact .result _ _ (by simp)
  | fmul =>
    refine ⟨_, State.withCommand_some h _, ?_⟩
    dsimp only; split
    · exact .failed _ _ (by simp)
    · exact .result _ _ (by simp)
  | fadd =>
    refine ⟨_, State.withCommand_some h _, ?_⟩
    dsimp only; split
    · exact .failed _ _ (by simp)
    · exact .result _ _ (by simp)
  | eval =>
    refine ⟨_, State.withCommand_some h _, ?_⟩
    dsimp only; split
    · exact .failed _ _ (by simp)
    · split
      · exact .result _ _ (by simp)
      · exact .failed _ _ (by simp)
  | begin =>
    refine ⟨_, State.withCommand_some h _, ?_⟩
    dsimp only; split
    · exact .failed _ _ (by simp)
    · exact .began ‹_›
  | fold =>
    refine ⟨_, State.withCommand_some h _, ?_⟩
    split
    · exact .failed _ _ (by simp)
    · split
      · exact .failed _ _ (by simp)
      · exact .folded ‹_› ‹_›
  | curres =>
    refine ⟨_, State.withCommand_some h _, ?_⟩
    split
    · exact .failed _ _ (by simp)
    · exact .result _ _ (by simp)
  | gen =>
    refine ⟨_, State.withCommand_some h _, ?_⟩
    dsimp only; split
    · rename_i e he; exact .failed _ _ (genCheck_ne_illegal he)
    · split
      · exact .waits ‹_› ‹_›
      · exact .shares _ _ ‹_› ‹_›

/-- With no command pending a meaning changes nothing (R188). -/
theorem exec_idle {s : State} (h : s.pending = none) (i : Instr) : exec i s = .next s := by
  cases i <;> exact State.withCommand_none h _

/-- What an Engine slot does: nothing when idle, an effect of the decoded command, or IllegalCommand. -/
theorem engineSlot_cases (s : State) : ∃ t, engineSlot s = .next t ∧
    ((s.pending = none ∧ t = s) ∨
      ∃ p, s.pending = some p ∧
        ((∃ i, decode p.cmd = .ok i ∧ exec i s = .next t ∧ Effect s p i t) ∨
          ((∀ i, decode p.cmd ≠ .ok i) ∧ t = s.fail .illegalCommand))) := by
  unfold engineSlot
  cases hp : s.pending with
  | none => exact ⟨s, rfl, .inl ⟨rfl, rfl⟩⟩
  | some p =>
    cases hd : decode p.cmd with
    | ok i =>
      obtain ⟨t, ht, he⟩ := exec_effect hp i
      exact ⟨t, by simpa [hd] using ht, .inr ⟨p, rfl, .inl ⟨i, hd, ht, he⟩⟩⟩
    | error r => exact ⟨_, by simp [hd], .inr ⟨p, rfl, .inr ⟨by simp [hd], rfl⟩⟩⟩

/-- A step is an Engine slot, or one outside input. -/
theorem step_cases (s : State) :
    (s.inputs = [] ∧ step s = engineSlot s) ∨
    (∃ rest, s.inputs = .engine :: rest ∧ step s = engineSlot (s.setInputs rest)) ∨
    (∃ x rest, s.inputs = x :: rest ∧ x ≠ .engine ∧ step s = .next ((s.setInputs rest).outside x)) := by
  cases h : s.inputs with
  | nil => left; simp [step, h]
  | cons x rest =>
    right
    cases x with
    | engine => left; exact ⟨rest, rfl, by simp [step, h]⟩
    | _ => right; exact ⟨_, rest, rfl, by simp, by simp [step, h]⟩

end Sys2Proof.Machine
end

