-- ==== Sys2Proof/Laws/Run.lean ====
section
/-! SUPPORT. Runs of several steps. -/

namespace Sys2Proof.Machine

theorem run_of_step {M : Host.Core} {s t : M.State} (h : M.step s = .next t) (k : Nat) :
    M.run (k + 1) s = M.run k t := by
  rw [Host.Core.run, h]

/-- A run peels its first step off. -/
theorem core_run_succ {s t : State} (h : step s = .next t) (k : Nat) : core.run (k + 1) s = core.run k t :=
  run_of_step (M := core) h k

/-! ### The number of the Sampler's exchange (R204) -/

theorem Effect.exchange_eq {s t : State} {p : Pending} {i : Instr} (h : Effect s p i t) : t.exchange = s.exchange := by
  cases h <;> rfl

theorem engineSlot_exchange {s t : State} (h : engineSlot s = .next t) : t.exchange = s.exchange := by
  obtain ⟨t', ht', hc⟩ := engineSlot_cases s
  rw [h] at ht'
  cases ht'
  rcases hc with ⟨-, rfl⟩ | ⟨p, -, ⟨i, -, -, he⟩ | ⟨-, rfl⟩⟩
  · rfl
  · exact he.exchange_eq
  · rfl

theorem State.writeReg_exchange_le (s : State) (r : Reg) (w : Word) : s.exchange ≤ (s.writeReg r w).exchange := by
  cases r with
  | ctrl =>
    simp only [State.writeReg, State.writeCtrl]
    split
    · exact Nat.le_succ _
    · exact Nat.le_refl _
  | cmd =>
    simp only [State.writeReg, State.writeCmd]
    split <;> exact Nat.le_refl _
  | _ => exact Nat.le_refl _

theorem State.hostAccess_exchange_le (s : State) (a : Access) : s.exchange ≤ (s.hostAccess a).exchange := by
  unfold State.hostAccess
  split
  · split
    · cases place s.params a.addr <;> cases a.dir <;> simp only [State.accessPlace] <;>
        first
        | exact Nat.le_refl _
        | exact State.writeReg_exchange_le s _ _
        | (split <;> exact Nat.le_refl _)
    · exact Nat.le_refl _
  · exact Nat.le_refl _

theorem State.outside_exchange_le (s : State) (x : Input) : s.exchange ≤ (s.outside x).exchange := by
  cases x with
  | engine => exact Nat.le_refl _
  | access a => exact s.hostAccess_exchange_le a
  | burst bs =>
    simp only [State.outside, State.hostBurst]
    split
    · exact Nat.le_refl _
    · split <;> exact Nat.le_refl _
  | wait =>
    simp only [State.outside, State.pollStatus]
    split <;> exact s.hostAccess_exchange_le _
  | sample n w =>
    simp only [State.outside, State.takeSample]
    split
    · exact Nat.le_succ _
    · exact Nat.le_refl _
  | hardReset => exact Nat.le_succ _

/-- No step lowers the number of the exchange. -/
theorem step_exchange_le {s t : State} (h : step s = .next t) : s.exchange ≤ t.exchange := by
  rcases step_cases s with ⟨-, hs⟩ | ⟨rest, -, hs⟩ | ⟨x, rest, -, -, hs⟩
  · exact (engineSlot_exchange (hs.symm.trans h)).ge
  · exact (engineSlot_exchange (hs.symm.trans h)).ge
  · rw [hs] at h
    cases h
    exact State.outside_exchange_le (s.setInputs rest) x

/-- No run lowers it. -/
theorem run_exchange_le {k : Nat} : ∀ {s t : State}, core.run k s = .next t → s.exchange ≤ t.exchange := by
  induction k with
  | zero =>
    intro s t h
    have hs : (Host.Outcome.next s : Host.Outcome State Fault Refusal) = .next t := h
    cases hs
    exact Nat.le_refl _
  | succ k ih =>
    intro s t h
    cases hs : step s with
    | next u =>
      rw [core_run_succ hs] at h
      exact (step_exchange_le hs).trans (ih h)
    | fault r => cases r
    | refused r =>
      rcases step_cases s with ⟨-, h'⟩ | ⟨rest, -, h'⟩ | ⟨x, rest, -, -, h'⟩
      · obtain ⟨t', ht', -⟩ := engineSlot_cases s
        cases (hs.symm.trans h').trans ht'
      · obtain ⟨t', ht', -⟩ := engineSlot_cases (s.setInputs rest)
        cases (hs.symm.trans h').trans ht'
      · cases hs.symm.trans h'

end Sys2Proof.Machine
end

