-- ==== Sys2Proof/Laws/Sampler.lean ====
section
/-! SUPPORT. What the sampler and the generation do to the words and to OPMEM. -/

namespace Sys2Proof.Machine

/-- `sampleBounded` waits exactly when no word is acceptable (R150, R158). -/
theorem sampleBounded_eq_none {max : Word} {shift : BitVec 5} {ws : List Word} :
    sampleBounded max shift ws = none ↔ ∀ w ∈ ws, ¬ shifted shift w < max := by
  induction ws with
  | nil => simp [sampleBounded]
  | cons w ws ih => simp only [sampleBounded]; split <;> simp_all

/-- `sampleBounded` takes the rejected words and the first acceptable one (R150). -/
theorem sampleBounded_eq_some {max : Word} {shift : BitVec 5} {ws rest : List Word} {v : Word}
    (h : sampleBounded max shift ws = some (v, rest)) :
    ∃ rejected w, ws = rejected ++ w :: rest ∧ (∀ u ∈ rejected, ¬ shifted shift u < max) ∧
      v = shifted shift w ∧ v < max := by
  induction ws with
  | nil => simp [sampleBounded] at h
  | cons w ws ih =>
    simp only [sampleBounded] at h
    split at h
    · simp only [Option.some.injEq, Prod.mk.injEq] at h
      obtain ⟨rfl, rfl⟩ := h
      exact ⟨[], w, by simp, by simp, rfl, ‹_›⟩
    · obtain ⟨rej, u, rfl, hr, hv, hm⟩ := ih h
      exact ⟨w :: rej, u, by simp, List.forall_mem_cons.2 ⟨‹_›, hr⟩, hv, hm⟩

/-- A property of OPMEM that every write into H or S keeps is kept by the generation. -/
theorem drawCoefficients_keeps {P : Memory → Prop} {g : GenOps}
    (hw : ∀ m k v, g.scratch.Holds k → P m → P (m.write k v)) :
    ∀ {n k : Nat} {m m' : Memory} {ws ws' : List Word}, g.scratch.base ≤ k →
      k + n ≤ g.scratch.base + g.scratch.len → P m →
      drawCoefficients g n k m ws = some (m', ws') → P m' := by
  intro n
  induction n with
  | zero => intro k m m' ws ws' _ _ hP h; simp only [drawCoefficients] at h; simp_all
  | succ n ih =>
    intro k m m' ws ws' h1 h2 hP h
    simp only [drawCoefficients] at h
    split at h
    · simp at h
    · exact ih (by omega) (by omega) (hw _ _ _ ⟨h1, by omega⟩ hP) h

theorem genParticipant_keeps {P : Memory → Prop} {g : GenOps} (hd : g.degree ≠ 0)
    (hs : ∀ m k v, g.scratch.Holds k → P m → P (m.write k v))
    (hh : ∀ m k v, g.shares.Holds k → P m → P (m.write k v))
    {i : Nat} (hi : i < g.c.toNat) {m m' : Memory} {ws ws' : List Word} (hP : P m)
    (h : genParticipant g i m ws = some (m', ws')) : P m' := by
  have hd' : 0 < g.degree.toNat := Nat.pos_of_ne_zero fun h0 => hd (BitVec.eq_of_toNat_eq (by simpa using h0))
  simp only [genParticipant] at h
  split at h
  · simp at h
  · rename_i m1 ws1 h1
    split at h
    · simp at h
    · simp only [Option.some.injEq, Prod.mk.injEq] at h
      obtain ⟨rfl, rfl⟩ := h
      have hlen : g.scratch.len = g.degree.toNat := rfl
      have hP1 : P m1 := drawCoefficients_keeps hs (Nat.le_refl _) (by omega) hP h1
      have hslen : g.shares.len = g.c.toNat := rfl
      exact hh _ _ _ ⟨by omega, by omega⟩ (hs _ _ _ ⟨by omega, by omega⟩ hP1)

theorem genLoop_keeps {P : Memory → Prop} {g : GenOps} (hd : g.degree ≠ 0)
    (hs : ∀ m k v, g.scratch.Holds k → P m → P (m.write k v))
    (hh : ∀ m k v, g.shares.Holds k → P m → P (m.write k v)) :
    ∀ {n i : Nat} {m m' : Memory} {ws ws' : List Word}, i + n ≤ g.c.toNat → P m →
      genLoop g n i m ws = some (m', ws') → P m' := by
  intro n
  induction n with
  | zero => intro i m m' ws ws' _ hP h; simp only [genLoop] at h; simp_all
  | succ n ih =>
    intro i m m' ws ws' hi hP h
    simp only [genLoop] at h
    split at h
    · simp at h
    · rename_i m1 ws1 h1
      have hi' : i < g.c.toNat := by omega
      exact ih (by omega) (genParticipant_keeps hd hs hh hi' hP h1) h

/-- The generation writes only share and scratch words (R152). -/
theorem genRun_keeps {P : Memory → Prop} {g : GenOps} (hd : g.degree ≠ 0)
    (hs : ∀ m k v, g.scratch.Holds k → P m → P (m.write k v))
    (hh : ∀ m k v, g.shares.Holds k → P m → P (m.write k v))
    {m m' : Memory} {ws ws' : List Word} (hP : P m) (h : genRun g m ws = some (m', ws')) : P m' :=
  genLoop_keeps hd hs hh (by omega) hP h

/-- A GEN that passes its checks has a nonzero field and degree, regions in range, and no word in two regions (R153). -/
theorem genCheck_eq_none {n : Nat} {g : GenOps} : genCheck n g = none ↔
    g.fieldSize ≠ 0 ∧ g.degree ≠ 0 ∧
    (g.identities.inRange n = true ∧ g.shares.inRange n = true ∧ g.scratch.inRange n = true) ∧
    (g.identities.overlaps g.shares = false ∧ g.identities.overlaps g.scratch = false ∧
      g.shares.overlaps g.scratch = false) := by
  unfold genCheck
  by_cases hf : g.fieldSize = 0
  · simp [hf]
  by_cases hd : g.degree = 0
  · simp [hd]; split <;> simp
  simp only [hf, hd, if_false, ne_eq, not_false_eq_true, true_and]
  cases g.identities.inRange n <;> cases g.shares.inRange n <;> cases g.scratch.inRange n <;>
    cases g.identities.overlaps g.shares <;> cases g.identities.overlaps g.scratch <;>
    cases g.shares.overlaps g.scratch <;> simp

end Sys2Proof.Machine
end

