-- ==== Sys2Proof/Laws/Samples.lean ====
section
/-! SUPPORT. GEN's checks as the claims state them, and the samples that raw words give. -/

namespace Sys2Proof.Machine

/-- R153's checks pass exactly for a legal GEN. -/
theorem legal_check {n : Nat} {g : GenOps} : g.Legal n ↔ genCheck n g = none := by
  rw [genCheck_eq_none]
  unfold GenOps.Legal
  simp only [List.forall_mem_cons, List.not_mem_nil, false_imp_iff, implies_true, and_true]
  simp only [Region.inRange_iff]
  have ho : ∀ a b : Region, a.overlaps b = false ↔ ∀ k, ¬ (a.Holds k ∧ b.Holds k) := by
    intro a b
    rw [← Bool.not_eq_true, Region.overlaps_iff, not_exists]
  simp only [ho]
  refine and_congr Iff.rfl (and_congr Iff.rfl (and_congr Iff.rfl ?_))
  constructor
  · intro h; exact ⟨fun k => (h k).1, fun k => (h k).2.1, fun k => (h k).2.2⟩
  · intro h k; exact ⟨h.1 k, h.2.1 k, h.2.2 k⟩

/-- Samples of a concatenation. -/
theorem samples_append (g : GenOps) (a b : List Word) : g.samples (a ++ b) = g.samples a ++ g.samples b := by
  simp [GenOps.samples]

/-- Words that are all rejected give no sample. -/
theorem samples_rej (g : GenOps) {l : List Word} (h : ∀ u ∈ l, ¬ shifted g.shift u < g.fieldSize) : g.samples l = [] := by
  simp only [GenOps.samples, List.filter_eq_nil_iff, List.mem_map]
  rintro _ ⟨u, hu, rfl⟩; simpa using h u hu

/-- `k` samples take exactly the words before `rest`. -/
def Uses (g : GenOps) (ws rest : List Word) (k : Nat) : Prop :=
  ∃ used, ws = used ++ rest ∧ (g.samples used).length = k ∧
    ∀ n' < used.length, (g.samples (used.take n')).length < k

theorem Uses.zero (g : GenOps) (ws) : Uses g ws ws 0 := ⟨[], rfl, rfl, by simp⟩

theorem Uses.drop {g ws rest k} (h : Uses g ws rest k) : g.samples rest = (g.samples ws).drop k := by
  obtain ⟨u, rfl, h, -⟩ := h
  rw [samples_append, ← h, List.drop_left]

theorem Uses.le {g ws rest k} (h : Uses g ws rest k) : k ≤ (g.samples ws).length := by
  obtain ⟨u, rfl, h, -⟩ := h
  rw [samples_append]; simp [h]

theorem Uses.trans {g a b c k l} (h1 : Uses g a b k) (h2 : Uses g b c l) : Uses g a c (k + l) := by
  obtain ⟨u, rfl, hu, hu'⟩ := h1
  obtain ⟨v, rfl, hv, hv'⟩ := h2
  refine ⟨u ++ v, by simp, by simp [samples_append, hu, hv], ?_⟩
  intro n hn
  by_cases h : n < u.length
  · rw [List.take_append_of_le_length h.le]; have := hu' n h; omega
  · have hn' : n - u.length < v.length := by simp at hn; omega
    rw [List.take_append, List.take_of_length_le (by omega), samples_append, List.length_append, hu]
    have := hv' _ hn'; omega

/-- An accepted draw is the next sample, and takes the words up to it. -/
theorem sample_some (g : GenOps) {ws : List Word} {v : Word} {rest}
    (h : sampleBounded g.fieldSize g.shift ws = some (v, rest)) :
    g.samples ws = v :: g.samples rest ∧ Uses g ws rest 1 := by
  obtain ⟨rej, w, rfl, hr, rfl, hv⟩ := sampleBounded_eq_some h
  have h1 : g.samples [w] = [shifted g.shift w] := by simp [GenOps.samples, hv]
  constructor
  · rw [samples_append, samples_rej g hr, ← List.singleton_append, samples_append, h1]; rfl
  · refine ⟨rej ++ [w], by simp, by rw [samples_append, samples_rej g hr, h1]; rfl, ?_⟩
    intro n hn
    have hn' : n ≤ rej.length := by simp at hn; omega
    rw [List.take_append_of_le_length hn', samples_rej]
    · simp
    · intro u hu; exact hr u (List.mem_of_mem_take hu)

/-- A draw that lacks words meets no sample. -/
theorem sample_none (g : GenOps) {ws : List Word} (h : sampleBounded g.fieldSize g.shift ws = none) : g.samples ws = [] :=
  samples_rej g (sampleBounded_eq_none.1 h)

/-- The coefficient draws: what they need, take, write and leave. -/
theorem draw_spec (g : GenOps) (n : Nat) : ∀ (k : Nat) (m : Memory) (ws : List Word),
    ((g.samples ws).length < n → drawCoefficients g n k m ws = none) ∧
    (n ≤ (g.samples ws).length → ∃ m' ws', drawCoefficients g n k m ws = some (m', ws') ∧ Uses g ws ws' n ∧
      (∀ j < n, m'.read (k + j) = (g.samples ws).getD j 0) ∧
      ∀ j, ¬ (k ≤ j ∧ j < k + n) → m'.read j = m.read j) := by
  induction n with
  | zero => intro k m ws; exact ⟨by simp, fun _ => ⟨m, ws, rfl, Uses.zero g ws, by simp, fun _ _ => rfl⟩⟩
  | succ n ih =>
    intro k m ws
    cases hs : sampleBounded g.fieldSize g.shift ws with
    | none =>
      have := sample_none g hs
      simp [drawCoefficients, hs, this]
    | some vr =>
      obtain ⟨v, rest⟩ := vr
      obtain ⟨h1, h2⟩ := sample_some g hs
      have := ih (k+1) (m.write k v) rest
      simp only [drawCoefficients, hs, h1, List.length_cons, Nat.add_lt_add_iff_right, Nat.add_le_add_iff_right]
      refine ⟨this.1, fun h => ?_⟩
      obtain ⟨m', ws', e, u, hr, ho⟩ := this.2 h
      refine ⟨m', ws', e, Nat.add_comm 1 n ▸ h2.trans u, ?_, ?_⟩
      · intro j hj
        cases j with
        | zero => rw [Nat.add_zero, ho k (by omega)]; simp
        | succ j => rw [show k + (j+1) = k+1+j by omega, hr j (by omega)]; simp
      · intro j hj
        rw [ho j (by omega), Memory.read_write_of_ne _ _ (by omega)]

end Sys2Proof.Machine
end

