-- ==== Sys2Proof/Tests/Slice0.lean ====
section
/-! SUPPORT. Tests of the model, each one step on a small state: ill-formed terms that the checks refuse, command words written
out from R80 and R81, results of spec/95_test_vectors.md, and for each obligation a state that meets its hypotheses. -/

namespace Sys2Proof.Tests

open Sys2Proof.Machine

/-! ### Helpers -/

/-- N_OPMEM = 16 at BASE = 0x10000: legal parameters. -/
def params : Params := { base := 0x10000, nOpmem := 16 }

/-- The state after reset with these parameters. -/
def base : State := State.resetWith params 0

/-- A command issued from `s`, running. -/
def issued (s : State) (i : Instr) (a : Args) (shift : BitVec 5 := 0) : State :=
  { s with pending := some { cmd := encode i, args := a, shift := shift }, busy := true }

/-- OPMEM with some words written. -/
def opmem (l : List (Nat × Word)) : Memory := l.foldl (fun m e => m.write e.1 e.2) base.opmem

/-- A field of the next state. -/
def after {α : Type} (o : Host.Outcome State Fault Refusal) (f : State → α) : Option α :=
  match o with
  | .next t => some (f t)
  | .fault _ => none
  | .refused _ => none

/-- An access at an offset of the window of `params`. -/
def acc (off : Nat) (d : Direction) (bits : Nat := 32) : Input :=
  .access { addr := 0x10000 + off, bits := bits, dir := d }

/-- Idle, with these inputs next. -/
def withInputs (l : List Input) : State := base.setInputs l

/-- 2^32 - 1. -/
def maxWord : Word := 0xFFFFFFFF

/-! ### WellFormed: each check refuses an ill-formed term -/

theorem test_rsvd_bit_is_refused : CommandWord.wellFormed { rsvd := 1, opc := 1 } = false := by decide
theorem test_opc_0_is_refused : CommandWord.wellFormed { rsvd := 0, opc := 0 } = false := by decide
theorem test_opc_9_is_refused : CommandWord.wellFormed { rsvd := 0, opc := 9 } = false := by decide
theorem test_opc_8_is_accepted : CommandWord.wellFormed { rsvd := 0, opc := 8 } = true := by decide
theorem test_no_opmem_is_refused : ¬ Params.WellFormed { base := 0, nOpmem := 0 } := by decide
theorem test_too_much_opmem_is_refused : ¬ Params.WellFormed { base := 0, nOpmem := 2 ^ 20 + 1 } :=
  fun h => absurd h.2.1 (by decide)
theorem test_misaligned_base_is_refused : ¬ Params.WellFormed { base := 0x1000, nOpmem := 16 } := by decide
theorem test_params_are_legal : params.WellFormed := by decide
theorem test_absent_target_is_refused : (ScriptOp.rd (.opmem 16)).wellFormed params = false := by decide
theorem test_last_target_is_accepted : (ScriptOp.wr (.opmem 15) 0).wellFormed params = true := by decide
theorem test_narrow_access_is_refused : Access.aligned32 { addr := 0x10008, bits := 16, dir := .read } = false := by
  decide
theorem test_misaligned_access_is_refused :
    Access.aligned32 { addr := 0x10012, bits := 32, dir := .write 0 } = false := by decide

/-! ### Decode: the words of R81 from the fields of R80, RSVD in bits 31:4 and OPC in bits 3:0 -/

theorem test_decode_reduce : decode 0b00000000000000000000000000000001 = .ok .reduce := by decide
theorem test_decode_fmul : decode 0b00000000000000000000000000000010 = .ok .fmul := by decide
theorem test_decode_fadd : decode 0b00000000000000000000000000000011 = .ok .fadd := by decide
theorem test_decode_eval : decode 0b00000000000000000000000000000100 = .ok .eval := by decide
theorem test_decode_begin : decode 0b00000000000000000000000000000101 = .ok .begin := by decide
theorem test_decode_fold : decode 0b00000000000000000000000000000110 = .ok .fold := by decide
theorem test_decode_curres : decode 0b00000000000000000000000000000111 = .ok .curres := by decide
theorem test_decode_gen : decode 0b00000000000000000000000000001000 = .ok .gen := by decide
theorem test_decode_gen_bytes : decodeBytes [0x08, 0, 0, 0] = .ok .gen := by decide
theorem test_decode_highest_lane : decodeBytes [0x08, 0, 0, 0x80] = .error .reservedBitSet := by decide
theorem test_decode_short : decodeBytes [0x08, 0, 0] = .error .notOneWord := by decide

/-! ### One step of each command (values: 95_test_vectors.md L2) -/

theorem test_reduce_above_2_31 :
    after (exec .reduce (issued base .reduce ⟨0x12345678, 0x9ABCDEF0, 0xFFFFFFFB, 0, 0, 0⟩))
      (fun t => (t.result, t.statusWord)) = some (0xF5C28F48, 0x002) := by decide

theorem test_reduce_by_zero :
    after (exec .reduce (issued (base.setResult 9) .reduce ⟨5, 7, 0, 0, 0, 0⟩))
      (fun t => (t.result, t.statusWord)) = some (9, 0x016) := by decide

/-- 40_reducer.md R102, 95 L2.1: the step of (1, 0, M) at bit 0, which a 32-bit working remainder gets wrong (C1). -/
theorem test_long_division_step_needs_33_bits : reduceStep maxWord 0x80000000 false = 1 := by decide

theorem test_fmul_largest :
    after (exec .fmul (issued base .fmul ⟨maxWord, maxWord, 0xFFFFFFFB, 0, 0, 0⟩)) (·.result) = some 16 := by decide

theorem test_fmul_by_zero :
    after (exec .fmul (issued base .fmul ⟨3, 5, 0, 0, 0, 0⟩)) (·.statusWord) = some 0x016 := by decide

theorem test_fadd_unreduced :
    after (exec .fadd (issued base .fadd ⟨20, 30, 7, 0, 0, 0⟩)) (·.result) = some 1 := by decide

theorem test_fadd_carry :
    after (exec .fadd (issued base .fadd ⟨maxWord, 1, maxWord, 0, 0, 0⟩)) (·.result) = some 1 := by decide

theorem test_eval_largest :
    after (exec .eval (issued (base.setOpmem (opmem [(2, maxWord), (3, maxWord), (4, maxWord)])) .eval
      ⟨3, 2, maxWord, 0xFFFFFFFB, 0, 0⟩)) (·.result) = some 84 := by decide

theorem test_eval_range_does_not_wrap :
    after (exec .eval (issued base .eval ⟨2, maxWord, 1, 7, 0, 0⟩)) (·.statusWord) = some 0x056 := by decide

/-- L2.5 row 4. -/
theorem test_begin :
    after (exec .begin (issued base .begin ⟨3, 7, 0, 0, 0, 0⟩))
      (fun t => (t.sacc, t.sx, t.sm, t.statusWord)) = some (0, 3, 7, 0x102) := by decide

/-- L2.5 row 10: a failed BEGIN keeps the evaluation. -/
theorem test_begin_by_zero_keeps_the_evaluation :
    after (exec .begin (issued (base.setStream 4 3 7 .folded) .begin ⟨2, 0, 0, 0, 0, 0⟩))
      (fun t => (t.sacc, t.sx, t.sm, t.statusWord)) = some (4, 3, 7, 0x216) := by decide

/-- L2.5 row 8. -/
theorem test_fold :
    after (exec .fold (issued (base.setStream 5 3 7 .folded) .fold ⟨3, 0, 0, 0, 0, 0⟩))
      (fun t => (t.sacc, t.sx, t.sm, t.statusWord)) = some (4, 3, 7, 0x202) := by decide

/-- L2.5 row 2. -/
theorem test_fold_uninit :
    after (exec .fold (issued base .fold ⟨4, 0, 0, 0, 0, 0⟩)) (·.statusWord) = some 0x026 := by decide

/-- L2.5 row 9. -/
theorem test_curres :
    after (exec .curres (issued (base.setStream 4 3 7 .folded) .curres ⟨0, 0, 0, 0, 0, 0⟩))
      (fun t => (t.result, t.statusWord)) = some (4, 0x202) := by decide

/-- L2.5 row 1. -/
theorem test_curres_uninit :
    after (exec .curres (issued base .curres ⟨0, 0, 0, 0, 0, 0⟩)) (·.statusWord) = some 0x026 := by decide

/-- L2.7 G4: one raw word rejected, the last coefficient overwritten by the identity. -/
theorem test_gen :
    after (exec .gen ((issued (base.setOpmem (opmem [(0, 12345)])) .gen ⟨16777213, 1, 3, 0, 1, 2⟩ 8).setDrawn
        [0xFFFFFFAB, 0x0003E812, 0x0007D034, 0x000BB856, 0x000FA078]))
      (fun t => (t.opmem.readRegion ⟨0, 5⟩, t.draws, t.statusWord))
      = some ([12345, 2551143, 1000, 2000, 12345], 5, 0x002) := by decide

/-- L2.7 G10: range is checked before overlap. -/
theorem test_gen_range_before_overlap :
    after (exec .gen (issued base .gen ⟨7, 2, 1, maxWord, maxWord, 8⟩)) (·.statusWord) = some 0x056 := by decide

/-! ### One host access (95_test_vectors.md L2.9) -/

theorem test_id_reads : after (step (withInputs [acc 0x000 .read])) (·.reply) = some (.data 0x4D520007) := by decide
theorem test_ctrl_write_keeps_shift_and_ie :
    after (step (withInputs [acc 0x004 (.write 0x0000FF02)])) (·.ctrlWord) = some 0x00001F02 := by decide
theorem test_narrow_read_is_refused :
    after (step (withInputs [acc 0x008 .read 16])) (·.reply) = some .busError := by decide
theorem test_misaligned_write_is_refused :
    after (step (withInputs [acc 0x012 (.write 5)])) (fun t => (t.reply, t.args)) =
      some (.busError, ⟨0, 0, 0, 0, 0, 0⟩) := by decide
theorem test_cmd_write_while_busy_sets_ovr :
    after (step ((issued base .gen ⟨7, 1, 1, 0, 1, 2⟩ 29).setInputs [acc 0x00C (.write 1)]))
      (fun t => (t.ovr, t.busy, t.done)) = some (true, true, false) := by decide

/-- 20_memory.md R62: 32 bits in all, and aligned, but not a 32-bit beat. -/
theorem test_burst_of_bytes_is_refused :
    after (step (withInputs [.burst [⟨0x10010, 8, .write 1⟩, ⟨0x10011, 8, .write 1⟩, ⟨0x10012, 8, .write 1⟩,
      ⟨0x10013, 8, .write 1⟩]])) (fun t => (t.reply, t.args)) = some (.busError, ⟨0, 0, 0, 0, 0, 0⟩) := by decide
theorem test_burst_of_words_is_its_beats :
    after (step (withInputs [.burst [⟨0x10010, 32, .write 1⟩, ⟨0x10014, 32, .write 2⟩]])) (·.inputs) =
      some [acc 0x010 (.write 1), acc 0x014 (.write 2)] := by decide

/-- 70_reset_and_hazards.md R204: of two offers to a GEN that asks, only the one for its own exchange is used. -/
theorem test_abandoned_exchange_is_dropped :
    let s := { issued base .gen ⟨7, 1, 1, 0, 1, 2⟩ 29 with exchange := 1 }
    after (step (s.setInputs [.sample 0 5])) (·.drawn) = some [] ∧
    after (step (s.setInputs [.sample 1 5])) (·.drawn) = some [5] := by decide

/-- 30_encoding.md R88: the expansion of FOLD. -/
theorem test_fold_expands :
    expand (.fold 4) = [.wr (.reg .arg0) 4, .wr (.reg .cmd) 0x00000006, .wait] := by decide

/-- 43_share_gen.md R150 with 95 L2.6: 0xE0000000 >> 29 = 7 is rejected, 0xDFFFFFFF >> 29 = 6 accepted. -/
theorem test_sample_bounded :
    sampleBounded 7 29 [0xE0000000, 0xDFFFFFFF, 5] = some (6, [5]) := by decide

/-! ### Hypotheses that are met: one witness for each obligation that has any, and for each of its clauses -/

/-- `(1, 0, maxWord)` for the arithmetic commands; the smallest nonzero divisor and the largest. -/
def arith (i : Instr) (d : Word) : State := issued base i ⟨1, 0, d, 0, 0, 0⟩

theorem wit_illegal_words :
    base.params.WellFormed ∧ base.busy = false ∧
    ¬ (1 ≤ (0x00000000 : Word).toNat ∧ (0x00000000 : Word).toNat ≤ 8) ∧
    ¬ (1 ≤ (0x00000009 : Word).toNat ∧ (0x00000009 : Word).toNat ≤ 8) ∧
    (withInputs [acc 0x00C (.write 9), .engine]).inputs =
      .access { addr := base.params.base + 0x00C, bits := 32, dir := .write 9 } :: .engine :: [] := by decide

theorem wit_step_runs :
    (issued base .gen ⟨7, 1, 1, 0, 1, 2⟩).pending = some ⟨encode .gen, ⟨7, 1, 1, 0, 1, 2⟩, 0⟩ ∧
    decode (encode .gen) = .ok .gen ∧ (issued base .gen ⟨7, 1, 1, 0, 1, 2⟩).inputs = [] ∧
    ((issued base .gen ⟨7, 1, 1, 0, 1, 2⟩).setInputs [.engine]).inputs = [.engine] ∧
    (base.issue 9).pending = some ⟨9, base.args, 0⟩ ∧ decode 9 = .error .opcodeUnassigned ∧
    base.pending = none := by decide

theorem wit_fetched_word : decodeTableWord 32 1 = some .reduce ∧ decodeTableWord 32 8 = some .gen := by decide

theorem wit_reduce_fmul_fadd :
    (arith .reduce 1).pending = some ⟨encode .reduce, ⟨1, 0, 1, 0, 0, 0⟩, 0⟩ ∧ (1 : Word) ≠ 0 ∧
    (arith .fmul maxWord).pending = some ⟨encode .fmul, ⟨1, 0, maxWord, 0, 0, 0⟩, 0⟩ ∧ maxWord ≠ 0 ∧
    (arith .fadd maxWord).pending = some ⟨encode .fadd, ⟨1, 0, maxWord, 0, 0, 0⟩, 0⟩ := by decide

/-- The empty region at an absent base, and the region that ends at N_OPMEM. -/
theorem wit_eval :
    (∃ p, (issued base .eval ⟨0, maxWord, 5, 7, 0, 0⟩).pending = some p ∧ p.args.arg3 ≠ 0 ∧ p.args.arg0 = 0) ∧
    (∃ p, (issued base .eval ⟨16, 0, 5, 7, 0, 0⟩).pending = some p ∧ p.args.arg3 ≠ 0 ∧
      p.args.arg1.toNat + p.args.arg0.toNat ≤ base.params.nOpmem) := by
  exact ⟨⟨_, rfl, by decide⟩, _, rfl, by decide⟩

theorem wit_begin : ∃ p, (issued base .begin ⟨3, 1, 0, 0, 0, 0⟩).pending = some p ∧ p.args.arg1 ≠ 0 :=
  ⟨_, rfl, by decide⟩

theorem wit_fold_curres :
    let s := issued (base.setStream 4 3 7 .begun) .fold ⟨3, 0, 0, 0, 0, 0⟩
    (∃ p, s.pending = some p) ∧ s.sstate ≠ .uninit ∧ s.sm ≠ 0 := ⟨⟨_, rfl⟩, by decide⟩

/-- A GEN that passes its checks, with regions that touch each other and the end of OPMEM. -/
def genOps : GenOps := { fieldSize := 7, c := 1, degree := 1, idbase := 13, shbase := 14, scbase := 15, shift := 29 }

theorem genOps_legal : genOps.Legal 16 := by
  refine ⟨by decide, by decide, by decide, fun k => ?_⟩
  simp only [Region.Holds, GenOps.identities, GenOps.shares, GenOps.scratch, genOps]
  simp; omega

/-- A GEN with the words `ws` drawn. -/
def genWith (ws : List Word) : State := (issued base .gen ⟨7, 1, 1, 13, 14, 15⟩ 29).setDrawn ws

/-- Enough words, and one too few. -/
theorem wit_gen_completes :
    (genWith []).pending = some ⟨encode .gen, ⟨7, 1, 1, 13, 14, 15⟩, 29⟩ ∧
    (⟨encode .gen, ⟨7, 1, 1, 13, 14, 15⟩, 29⟩ : Pending).genOps = genOps ∧
    genOps.samplesNeeded ≤ (genOps.samples (genWith [0xE0000000, 0, 0x20000000]).drawn).length ∧
    (genOps.samples (genWith [0xE0000000, 0]).drawn).length < genOps.samplesNeeded := by decide

theorem wit_zero_modulus :
    (∃ p, (arith .reduce 0).pending = some p ∧ p.args.arg2 = 0) ∧
    (∃ p, (issued base .eval ⟨0, 0, 5, 0, 0, 0⟩).pending = some p ∧ p.args.arg3 = 0) ∧
    (∃ p, (issued base .begin ⟨3, 0, 0, 0, 0, 0⟩).pending = some p ∧ p.args.arg1 = 0) ∧
    (∃ p, (issued base .gen ⟨0, 1, 0, 0, 1, 2⟩).pending = some p ∧ p.args.arg0 = 0) :=
  ⟨⟨_, rfl, rfl⟩, ⟨_, rfl, rfl⟩, ⟨_, rfl, rfl⟩, _, rfl, rfl⟩

theorem wit_uninit :
    (∃ p, (issued base .fold ⟨4, 0, 0, 0, 0, 0⟩).pending = some p) ∧
    (issued base .fold ⟨4, 0, 0, 0, 0, 0⟩).sstate = .uninit := ⟨⟨_, rfl⟩, rfl⟩

theorem wit_eval_checks :
    (∃ p, (issued base .eval ⟨0, 0, 5, 0, 0, 0⟩).pending = some p ∧ p.args.arg3 = 0) ∧
    (∃ p, (issued base .eval ⟨1, 16, 1, 7, 0, 0⟩).pending = some p ∧ p.args.arg3 ≠ 0 ∧ p.args.arg0 ≠ 0 ∧
      base.params.nOpmem < p.args.arg1.toNat + p.args.arg0.toNat) :=
  ⟨⟨_, rfl, rfl⟩, _, rfl, by decide⟩

/-- 95 L2.7: G5, G6, G11 (S out of range with c = 0), G8 (I and H overlap). -/
theorem wit_gen_checks :
    let g (f c d i h k : Word) : GenOps := ⟨f, c, d, i, h, k, 0⟩
    (g 0 1 0 0 1 2).fieldSize = 0 ∧
    ((g 7 1 0 0 1 2).fieldSize ≠ 0 ∧ (g 7 1 0 0 1 2).degree = 0) ∧
    ((g 7 0 1 0 0 maxWord).degree ≠ 0 ∧
      ∃ r ∈ [(g 7 0 1 0 0 maxWord).identities, (g 7 0 1 0 0 maxWord).shares, (g 7 0 1 0 0 maxWord).scratch],
        r.len ≠ 0 ∧ base.params.nOpmem < r.base + r.len) ∧
    ((∀ r ∈ [(g 7 2 1 0 0 8).identities, (g 7 2 1 0 0 8).shares, (g 7 2 1 0 0 8).scratch],
        r.len = 0 ∨ r.base + r.len ≤ base.params.nOpmem) ∧
      (g 7 2 1 0 0 8).identities.Holds 1 ∧ (g 7 2 1 0 0 8).shares.Holds 1) := by
  refine ⟨by decide, by decide, ⟨by decide, by decide⟩, by decide, ?_⟩
  simp [Region.Holds, GenOps.identities, GenOps.shares]

theorem wit_failed_command :
    (∃ p t, (arith .reduce 0).pending = some p ∧ EngineNext (arith .reduce 0) ∧ step (arith .reduce 0) = .next t ∧
      t.pending = none ∧ t.errcode ≠ 0) ∧
    (∃ p t, (base.issue 9).pending = some p ∧ EngineNext (base.issue 9) ∧ step (base.issue 9) = .next t ∧
      t.pending = none ∧ t.errcode ≠ 0) :=
  ⟨⟨_, _, rfl, .inl rfl, rfl, rfl, by decide⟩, _, _, rfl, .inl rfl, rfl, rfl, by decide⟩

theorem wit_successful_command :
    ∃ p t, (arith .reduce 7).pending = some p ∧ exec .reduce (arith .reduce 7) = .next t ∧ t.pending = none ∧
      t.errcode = 0 := ⟨_, _, rfl, rfl, by decide⟩

theorem wit_result_commands_frame : ∃ t, exec .curres (arith .curres 0) = .next t := ⟨_, rfl⟩

theorem wit_stream_commands_frame : ∃ t, exec .begin (issued base .begin ⟨3, 7, 0, 0, 0, 0⟩) = .next t := ⟨_, rfl⟩

theorem wit_gen_frame :
    ∃ p t, (genWith [0, 0]).pending = some p ∧ exec .gen (genWith [0, 0]) = .next t := ⟨_, _, rfl, rfl⟩

/-- A BEGIN's completion changes the context, and so does a hardware reset. -/
theorem wit_stream_changes :
    (∃ t, step (issued base .begin ⟨3, 7, 0, 0, 0, 0⟩) = .next t ∧ t.sm ≠ base.sm) ∧
    (∃ t, step ((base.setStream 4 3 7 .folded).setInputs [.hardReset]) = .next t ∧ t.sm ≠ 7) :=
  ⟨⟨_, rfl, by decide⟩, _, rfl, by decide⟩

theorem wit_effects_at_completion :
    let s := (arith .reduce 7).setInputs [acc 0x010 (.write 5)]
    s.inputs = acc 0x010 (.write 5) :: [] ∧ acc 0x010 (.write 5) ≠ .engine ∧ acc 0x010 (.write 5) ≠ .hardReset ∧
    ¬ SoftResets s (acc 0x010 (.write 5)) ∧ (∃ t, step s = .next t) ∧ s.busy = true := by
  refine ⟨rfl, by decide, by decide, ?_, ⟨_, rfl⟩, rfl⟩
  rintro ⟨w, -, h⟩
  exact absurd h (by simp [acc, arith, issued, base, State.resetWith, params])

theorem wit_snapshot : ∃ p, (arith .reduce 7).pending = some p := ⟨_, rfl⟩

/-- A byte access at the window's first byte, a misaligned one at its last byte, a wide one that begins below it, and the words next
to the window. -/
theorem wit_refused_access :
    let a : Access := { addr := 0x10000, bits := 8, dir := .read }
    let b : Access := { addr := 0x1103F, bits := 32, dir := .read }
    let c : Access := { addr := 0xFFFC, bits := 64, dir := .read }
    let d : Access := { addr := 0x11040, bits := 32, dir := .read }
    let e : Access := { addr := 0xFFFC, bits := 32, dir := .read }
    (a.InWindow params ∧ ¬ (a.bits = 32 ∧ a.addr % 4 = 0)) ∧ (b.InWindow params ∧ ¬ (b.bits = 32 ∧ b.addr % 4 = 0)) ∧
    (c.InWindow params ∧ ¬ (c.bits = 32 ∧ c.addr % 4 = 0)) ∧ ¬ d.InWindow params ∧ ¬ e.InWindow params := by
  refine ⟨⟨⟨0x10000, by decide⟩, by decide⟩, ⟨⟨0x1103F, by decide⟩, by decide⟩, ⟨⟨0x10000, by decide⟩, by decide⟩, ?_, ?_⟩ <;>
    · rintro ⟨j, hj⟩
      simp only [params] at hj
      omega

/-- Two 16-bit beats in the window, and two below it; the burst of words is `test_burst_of_words_is_its_beats`. -/
theorem wit_burst :
    let b (n : Nat) : Access := { addr := n, bits := 16, dir := .read }
    (withInputs [.burst [b 0x10000, b 0x10002]]).inputs = .burst [b 0x10000, b 0x10002] :: [] ∧
    ¬ ((b 0x10000).bits = 32 ∧ (b 0x10000).addr % 4 = 0) ∧ (b 0x10000).InWindow params ∧
    (∀ x ∈ [b 0xFFFC, b 0xFFFE], ¬ x.InWindow params) ∧
    (∀ x ∈ ([⟨0x10010, 32, .read⟩, ⟨0x1103C, 32, .read⟩] : List Access), x.bits = 32 ∧ x.addr % 4 = 0) := by
  refine ⟨rfl, by decide, ⟨0x10000, by decide⟩, ?_, by decide⟩
  simp only [List.forall_mem_cons, List.not_mem_nil, false_imp_iff, implies_true, and_true]
  constructor <;>
    · rintro ⟨j, hj⟩
      simp only [params] at hj
      omega

/-- The last OPMEM word while BUSY; the last register. -/
theorem wit_opmem_refused :
    let s := (arith .reduce 7).setInputs [acc 0x103C .read]
    s.params.WellFormed ∧ 15 < s.params.nOpmem ∧ s.busy = true ∧
    s.inputs = .access { addr := s.params.base + (0x1000 + 4 * 15), bits := 32, dir := .read } :: [] ∧
    acc 0x03C .read = .access { addr := s.params.base + regOffset .opmemWords, bits := 32, dir := .read } := by decide

theorem wit_register_reads :
    (withInputs [acc 0x03C .read]).inputs =
      .access { addr := base.params.base + regOffset .opmemWords, bits := 32, dir := .read } :: [] := by decide

theorem wit_status_write :
    (withInputs [acc 0x008 (.write 0xE)]).inputs =
      .access { addr := base.params.base + 0x008, bits := 32, dir := .write 0xE } :: [] := by decide

/-- Bit 0 = 1 and bit 0 = 0. -/
theorem wit_ctrl_write :
    (withInputs [acc 0x004 (.write 0xFFFFFFFF)]).inputs =
      .access { addr := base.params.base + 0x004, bits := 32, dir := .write 0xFFFFFFFF } :: [] ∧
    (0xFFFFFFFF : Word).getLsbD 0 = true ∧ (0x0000FF02 : Word).getLsbD 0 = false := by decide

theorem wit_cmd_write :
    (withInputs [acc 0x00C (.write 1)]).inputs =
      .access { addr := base.params.base + 0x00C, bits := 32, dir := .write 1 } :: [] ∧ base.busy = false ∧
    (arith .reduce 7).busy = true := by decide

theorem wit_arg_write :
    (withInputs [acc 0x024 (.write 1)]).inputs =
      .access { addr := base.params.base + (0x010 + 4 * 5), bits := 32, dir := .write 1 } :: [] ∧
    ∃ t, exec .reduce (arith .reduce 7) = .next t := ⟨by decide, _, rfl⟩

/-- The first and the last reserved offset, ID, and the last read-only register. -/
theorem wit_reserved :
    (withInputs [acc 0xFFC .read]).inputs =
      .access { addr := base.params.base + 0xFFC, bits := 32, dir := .read } :: [] ∧
    (0x040 % 4 = 0 ∧ 0xFFC % 4 = 0 ∧ 0x03C % 4 = 0) ∧
    (withInputs [acc 0x03C (.write 5)]).inputs =
      .access { addr := base.params.base + 0x03C, bits := 32, dir := .write 5 } :: [] := by decide

/-- The same word, and another one, at both ends of OPMEM. -/
theorem wit_opmem_write_then_read :
    (withInputs [acc 0x103C (.write 5), acc 0x1000 .read]).inputs =
      .access { addr := base.params.base + (0x1000 + 4 * 15), bits := 32, dir := .write 5 } ::
      .access { addr := base.params.base + (0x1000 + 4 * 0), bits := 32, dir := .read } :: [] ∧
    base.busy = false ∧ 15 < base.params.nOpmem := by decide

theorem wit_reads :
    (∃ t, step (withInputs [acc 0x008 .read]) = .next t) ∧
    (∃ t, step (withInputs [.wait]) = .next t) ∧
    (∃ t, step (withInputs [.burst [⟨0x10010, 32, .write 1⟩]]) = .next t) := ⟨⟨_, rfl⟩, ⟨_, rfl⟩, _, rfl⟩

theorem wit_interrupt :
    (∃ p t, (arith .reduce 7).pending = some p ∧ exec .reduce (arith .reduce 7) = .next t ∧ t.pending = none) ∧
    (0x00000002 : Word).getLsbD 0 = false := ⟨⟨_, _, rfl, rfl, rfl⟩, by decide⟩

theorem base_inv : base.Inv := by
  refine ⟨by decide, rfl, by decide, fun h => absurd rfl h, fun _ => ⟨rfl, rfl, rfl⟩, ⟨List.Pairwise.nil, ?_⟩, ?_,
    ⟨by decide, ?_⟩, fun _ => rfl⟩ <;> · intro e he; cases he

theorem wit_hard_reset : (withInputs [.hardReset]).Inv ∧ (withInputs [.hardReset]).inputs = .hardReset :: [] :=
  ⟨{ base_inv with }, rfl⟩

/-- With a GEN running and with none; a share word and a scratch word that exist, and a word of neither. -/
theorem wit_soft_reset :
    let s := (genWith []).setInputs [acc 0x004 (.write 1)]
    s.params.WellFormed ∧ SoftResets s (acc 0x004 (.write 1)) ∧ s.inputs = acc 0x004 (.write 1) :: [] ∧
    s.runningGen = some genOps ∧ base.runningGen = none ∧ genOps.shares.Holds 14 ∧ genOps.scratch.Holds 15 ∧
    ¬ genOps.shares.Holds 13 ∧ ¬ genOps.scratch.Holds 13 := by
  refine ⟨by decide, ⟨1, by decide, rfl⟩, rfl, by decide, by decide, ?_⟩
  simp [Region.Holds, GenOps.shares, GenOps.scratch, genOps]

theorem wit_sampler :
    ((genWith [0]).setInputs [.sample 0 5]).inputs = .sample 0 5 :: [] ∧ (genWith [0]).exchange = 0 ∧
    AsksForSample (genWith [0]) ∧ ¬ (AsksForSample (withInputs [.sample 0 5]) ∧ 0 = base.exchange) :=
  ⟨rfl, rfl, ⟨genOps, by decide, genOps_legal, by decide⟩, fun h => by obtain ⟨⟨g, hg, -⟩, -⟩ := h; cases hg⟩

/-- A GEN's exchange number 0 is in progress at a reset, and a word is offered for it after the reset. -/
theorem wit_abandoned_exchange :
    let s := (genWith []).setInputs [.hardReset, .sample 0 5]
    s.params.WellFormed ∧ AsksForSample s ∧ ∃ t, step s = .next t ∧ core.run 0 t = .next t ∧ 0 ≤ s.exchange ∧
      t.inputs = .sample 0 5 :: [] :=
  ⟨by decide, ⟨genOps, by decide, genOps_legal, by decide⟩, _, rfl, rfl, Nat.le_refl _, rfl⟩

theorem wit_arithmetic : maxWord ≠ 0 ∧ (1 : Word) ≠ 0 ∧ (5 : Word).toNat < (7 : Word).toNat := by decide

/-- A draw that is accepted, and words that are all rejected. -/
theorem wit_sample :
    sampleBounded 7 29 [0xE0000000, 0] = some (0, []) ∧ sampleBounded 7 29 [0xE0000000] = none := by decide

theorem wit_every_step : base.Inv := base_inv

theorem wit_engine_slot :
    (∃ p, (arith .reduce 7).pending = some p ∧ decode p.cmd ≠ .ok .gen) ∧ EngineNext (arith .reduce 7) ∧
    (∃ t, step (arith .reduce 7) = .next t) ∧
    (∃ t, step (genWith []) = .next t ∧ t.pending ≠ none) :=
  ⟨⟨_, rfl, by decide⟩, .inl rfl, ⟨_, rfl⟩, _, rfl, by decide⟩

theorem wit_scripted_fmul :
    let s := withInputs (scriptInputs params [.fmul 6 6 7])
    s.params.WellFormed ∧ s.Idle ∧ (7 : Word) ≠ 0 ∧ s.inputs = scriptInputs s.params [.fmul 6 6 7] ++ [] :=
  ⟨by decide, ⟨rfl, rfl⟩, by decide, (List.append_nil _).symm⟩

theorem wit_bulk_and_streaming :
    let s := base.setOpmem (opmem [(14, 3), (15, 4)])
    s.params.WellFormed ∧ s.Idle ∧ (7 : Word) ≠ 0 ∧ (14 : Word).toNat + [3, 4].length ≤ s.params.nOpmem ∧
    [3, 4] = s.opmem.readRegion ⟨(14 : Word).toNat, [3, 4].length⟩ :=
  ⟨by decide, ⟨rfl, rfl⟩, by decide, by decide, by decide⟩

end Sys2Proof.Tests
end

namespace Sys2Proof.Machine

/-! ## Every step keeps `State.Inv`

The invariant falls into the part about OPMEM (`Memory.Sound`) and the part about the registers and the pending command. Each
operation of the state keeps it; a step is one of those operations. -/

/-! ### Sound memories -/

/-- What `State.Inv` asks of an OPMEM of `n` words, with the free tags below `tag` given out: canonical form (R64), indices in
bounds, and old tags only (R73, R203). -/
structure Memory.Sound (n tag : Nat) (m : Memory) : Prop where
  wf       : m.wf
  inBounds : ∀ e ∈ m.cells, e.1 < n
  epoch    : m.epoch < tag
  tags     : ∀ e ∈ m.cells, e.2.tagBelow tag

theorem Content.tagBelow.mono {c : Content} {tag tag' : Nat} (h : c.tagBelow tag) (hle : tag ≤ tag') :
    c.tagBelow tag' := by
  cases c with
  | known w => trivial
  | free t => exact Nat.lt_of_lt_of_le h hle

theorem Memory.Sound.mono {n tag tag' : Nat} {m : Memory} (h : m.Sound n tag) (hle : tag ≤ tag') : m.Sound n tag' :=
  ⟨h.wf, h.inBounds, Nat.lt_of_lt_of_le h.epoch hle, fun e he => (h.tags e he).mono hle⟩

theorem Memory.Sound.empty {n tag tag' : Nat} (h : tag < tag') : Memory.Sound n tag' { epoch := tag, cells := [] } :=
  ⟨Memory.wf_empty tag, by simp, h, by simp⟩

/-- Setting a word that exists to a content whose tag has been given out. -/
theorem Memory.Sound.set {n tag k : Nat} {c : Content} {m : Memory} (h : m.Sound n tag) (hk : k < n)
    (hc : c.tagBelow tag) : (m.set k c).Sound n tag where
  wf := Memory.wf_set h.wf k c
  inBounds e he := by
    obtain ⟨rfl, -⟩ | he := Memory.mem_set he
    · exact hk
    · exact h.inBounds e he
  epoch := h.epoch
  tags e he := by
    obtain ⟨rfl, -⟩ | he := Memory.mem_set he
    · exact hc
    · exact h.tags e he

theorem Memory.Sound.write {n tag k : Nat} {m : Memory} (h : m.Sound n tag) (hk : k < n) (v : Word) :
    (m.write k v).Sound n tag :=
  h.set hk trivial

/-- Words released under the next tag leave the memory sound once that tag is given out (R203). -/
theorem Memory.Sound.release {n tag : Nat} {ks : List Nat} {m : Memory} (h : m.Sound n tag) (hks : ∀ k ∈ ks, k < n) :
    (m.release tag ks).Sound n (tag + 1) :=
  List.foldlRecOn ks _ (h.mono (Nat.le_succ tag)) fun _ hm k hk => hm.set (hks k hk) (Nat.lt_succ_self tag)

/-- The words of a region in range exist (R65). -/
theorem Region.lt_of_holds {r : Region} {n k : Nat} (hr : r.inRange n = true) (hk : r.Holds k) : k < n := by
  have hin := Region.inRange_iff.1 hr
  obtain ⟨hlo, hhi⟩ := hk
  omega

/-- A GEN that has passed its checks writes only words that exist. -/
theorem genRun_sound {n tag : Nat} {g : GenOps} {m m' : Memory} {ws rest : List Word} (hc : genCheck n g = none)
    (h : m.Sound n tag) (hr : genRun g m ws = some (m', rest)) : m'.Sound n tag := by
  obtain ⟨-, hdegree, ⟨-, hshares, hscratch⟩, -⟩ := genCheck_eq_none.1 hc
  exact genRun_keeps hdegree (fun _ _ v hk hm => hm.write (Region.lt_of_holds hscratch hk) v)
    (fun _ _ v hk hm => hm.write (Region.lt_of_holds hshares hk) v) h hr

/-- The OPMEM words the window decodes exist (R60). -/
theorem lt_of_place_opmem {p : Params} {addr k : Nat} (h : place p addr = .opmem k) : k < p.nOpmem := by
  unfold place at h
  simp only at h
  split at h
  · cases h
  · split at h
    · split at h <;> cases h
    · split at h
      · rename_i hwin
        cases h
        unfold Params.windowBytes at hwin
        omega
      · cases h

/-! ### Each operation of the state keeps the invariant -/

/-- The fields that `State.Inv` reads. -/
def State.invFields (s : State) :
    Params × Bool × Option Pending × BitVec 4 × SState × Word × Word × Word × Memory × Nat × List Word :=
  (s.params, s.busy, s.pending, s.errcode, s.sstate, s.sacc, s.sx, s.sm, s.opmem, s.freeTag, s.drawn)

/-- A state with the same values of those fields is sound too: RESULT, DRAWS, CTRL, the ARG registers, the flags DONE, ERR and
OVR, and the outside world are free. -/
theorem State.Inv.congr {s t : State} (h : s.Inv) (e : t.invFields = s.invFields) : t.Inv := by
  cases s
  cases t
  simp only [State.invFields, Prod.mk.injEq] at e
  obtain ⟨rfl, rfl, rfl, rfl, rfl, rfl, rfl, rfl, rfl, rfl, rfl⟩ := e
  exact { h with }

theorem State.Inv.opmemSound {s : State} (h : s.Inv) : s.opmem.Sound s.params.nOpmem s.freeTag :=
  ⟨h.opmem, h.inBounds, h.tags.1, h.tags.2⟩

theorem State.Inv.setOpmem {s : State} {m : Memory} (h : s.Inv) (hm : m.Sound s.params.nOpmem s.freeTag) :
    (s.setOpmem m).Inv :=
  { h with opmem := hm.wf, inBounds := hm.inBounds, tags := ⟨hm.epoch, hm.tags⟩ }

/-- BEGIN and FOLD store a nonzero modulus and a reduced accumulator (R43). -/
theorem State.Inv.setStream {s : State} {a m : Word} {st : SState} (h : s.Inv) (hst : st ≠ .uninit) (hm : m ≠ 0)
    (ha : a.toNat < m.toNat) (x : Word) : (s.setStream a x m st).Inv :=
  { h with stream := fun _ => ⟨hm, ha⟩, uninit := fun hu => absurd hu hst }

theorem State.Inv.complete {s : State} (h : s.Inv) : s.complete.Inv :=
  { h with busy := rfl, errcode := Nat.zero_le _, drawn := fun _ => rfl }

theorem ErrorCode.code_le (e : ErrorCode) : e.code.toNat ≤ 5 := by
  cases e <;> decide

theorem State.Inv.fail {s : State} (h : s.Inv) (e : ErrorCode) : (s.fail e).Inv :=
  { h with busy := rfl, errcode := e.code_le, drawn := fun _ => rfl }

theorem State.Inv.issue {s : State} (h : s.Inv) (w : Word) : (s.issue w).Inv :=
  { h with busy := rfl, drawn := fun _ => rfl }

/-- A word of the Sampler is taken only while a GEN runs (R151). -/
theorem State.Inv.takeWord {s : State} (h : s.Inv) (hg : s.runningGen ≠ none) (w : Word) : (s.takeWord w).Inv :=
  { h with drawn := fun hn => absurd hn hg }

/-! ### Resets -/

theorem State.resetWith_inv {p : Params} (hp : p.WellFormed) (tag : Nat) : (State.resetWith p tag).Inv :=
  have hm : Memory.Sound p.nOpmem (tag + 1) { epoch := tag, cells := [] } := .empty (Nat.lt_succ_self tag)
  { params := hp, busy := rfl, errcode := Nat.zero_le _, stream := fun hst => absurd rfl hst
    uninit := fun _ => ⟨rfl, rfl, rfl⟩, opmem := hm.wf, inBounds := hm.inBounds, tags := ⟨hm.epoch, hm.tags⟩
    drawn := fun _ => rfl }

theorem State.Inv.hardReset {s : State} (h : s.Inv) : s.hardReset.Inv :=
  (State.resetWith_inv h.params s.freeTag).congr rfl

/-- The words of an abandoned GEN that become unspecified exist, whether or not the GEN would have passed its checks (R203). -/
theorem State.Inv.softResetOpmem_sound {s : State} (h : s.Inv) :
    s.softResetOpmem.Sound s.params.nOpmem (s.freeTag + 1) := by
  unfold State.softResetOpmem
  split
  · refine h.opmemSound.release fun k hk => ?_
    obtain hk | hk := List.mem_append.1 hk
    · exact (Region.mem_existing.1 hk).2
    · exact (Region.mem_existing.1 hk).2
  · exact h.opmemSound.mono (Nat.le_succ _)

theorem State.Inv.softReset {s : State} (h : s.Inv) : s.softReset.Inv :=
  ((State.resetWith_inv h.params s.freeTag).setOpmem h.softResetOpmem_sound).congr rfl

/-! ### Outside inputs -/

theorem State.Inv.writeReg {s : State} (h : s.Inv) (r : Reg) (w : Word) : (s.writeReg r w).Inv := by
  cases r with
  | ctrl =>
    simp only [State.writeReg, State.writeCtrl]
    split
    · exact h.softReset
    · exact h.congr rfl
  | cmd =>
    simp only [State.writeReg, State.writeCmd]
    split
    · exact h.congr rfl
    · exact h.issue w
  | _ => exact h.congr rfl

/-- An access at a place of the window, whose OPMEM words exist. -/
theorem State.Inv.accessPlace {s : State} {pl : Place} (h : s.Inv) (hpl : ∀ k, pl = .opmem k → k < s.params.nOpmem)
    (d : Direction) : (s.accessPlace pl d).Inv := by
  cases pl with
  | reg r =>
    cases d with
    | read => exact h.congr rfl
    | write w => exact (h.writeReg r w).congr rfl
  | reserved => cases d <;> exact h.congr rfl
  | opmem k =>
    cases d with
    | read => simp only [State.accessPlace]; split <;> exact h.congr rfl
    | write w =>
      simp only [State.accessPlace]
      split
      · exact h.congr rfl
      · exact (h.setOpmem (h.opmemSound.write (hpl k rfl) w)).congr rfl
  | outside => exact h.congr rfl

theorem State.Inv.hostAccess {s : State} (h : s.Inv) (a : Access) : (s.hostAccess a).Inv := by
  unfold State.hostAccess
  split
  · split
    · exact h.accessPlace (fun _ => lt_of_place_opmem) a.dir
    · exact h.congr rfl
  · exact h.congr rfl

theorem State.Inv.hostBurst {s : State} (h : s.Inv) (beats : List Access) : (s.hostBurst beats).Inv := by
  unfold State.hostBurst
  split
  · exact h.congr rfl
  · split <;> exact h.congr rfl

theorem State.Inv.pollStatus {s : State} (h : s.Inv) : s.pollStatus.Inv := by
  have hread := h.hostAccess { addr := targetAddr s.params (.reg .status), bits := 32, dir := .read }
  unfold State.pollStatus
  simp only
  split
  · exact hread.congr rfl
  · exact hread

theorem State.runningGen_ne_none_of_asksSampler {s : State} (h : s.asksSampler = true) : s.runningGen ≠ none := by
  intro hn
  simp [State.asksSampler, hn] at h

theorem State.Inv.takeSample {s : State} (h : s.Inv) (n : Nat) (w : Word) : (s.takeSample n w).Inv := by
  unfold State.takeSample
  split
  · rename_i hask
    exact h.takeWord (State.runningGen_ne_none_of_asksSampler (Bool.and_eq_true_iff.1 hask).1) w
  · exact h

theorem State.Inv.outside {s : State} (h : s.Inv) (x : Input) : (s.outside x).Inv := by
  cases x with
  | engine => exact h
  | access a => exact h.hostAccess a
  | burst beats => exact h.hostBurst beats
  | wait => exact h.pollStatus
  | sample n w => exact h.takeSample n w
  | hardReset => exact h.hardReset

/-! ### The Engine -/

theorem Effect.inv {s t : State} {p : Pending} {i : Instr} (he : Effect s p i t) (h : s.Inv) : t.Inv := by
  cases he with
  | failed _ e _ => exact h.fail e
  | result _ w _ =>
    have hw : (s.setResult w).Inv := h.congr rfl
    exact hw.complete
  | began hm =>
    have hacc : (0 : Word).toNat < p.beginOps.m.toNat := Word.toNat_pos hm
    exact (h.setStream (by decide) hm hacc _).complete
  | folded _ hm => exact (h.setStream (by decide) hm (hornerStep_lt hm _ _ _) _).complete
  | waits _ _ => exact h
  | shares m rest hc hr =>
    have hd : ((s.setOpmem m).setDraws (BitVec.ofNat 32 (s.drawn.length - rest.length))).Inv :=
      (h.setOpmem (genRun_sound hc h.opmemSound hr)).congr rfl
    exact hd.complete

theorem engineSlot_safe {s : State} (h : s.Inv) : ∃ t, engineSlot s = .next t ∧ t.Inv := by
  obtain ⟨t, ht, ⟨-, rfl⟩ | ⟨p, -, ⟨i, -, -, he⟩ | ⟨-, rfl⟩⟩⟩ := engineSlot_cases s
  · exact ⟨_, ht, h⟩
  · exact ⟨t, ht, he.inv h⟩
  · exact ⟨_, ht, h.fail .illegalCommand⟩

/-- Settles O50: a step is an Engine slot or an outside input, and each keeps the invariant. -/
theorem everyStepIsSafe : Obligations.EveryStepIsSafe := by
  intro s h
  have hrest (rest : List Input) : (s.setInputs rest).Inv := h.congr rfl
  unfold SafeStep
  obtain ⟨-, hs⟩ | ⟨rest, -, hs⟩ | ⟨x, rest, -, -, hs⟩ := step_cases s
  · rw [hs]
    exact engineSlot_safe h
  · rw [hs]
    exact engineSlot_safe (hrest rest)
  · exact ⟨_, hs, (hrest rest).outside x⟩

end Sys2Proof.Machine

namespace Sys2Proof.Machine

/-! ## What a command leaves unchanged

`exec_cases` reduces a command's completion to its `Effect`; each group of fields then has one lemma that says which commands
leave it alone, and the frames of the commands are read off those lemmas. -/

/-- A command's meaning changes nothing when idle and has one of its effects when pending. -/
theorem exec_cases {i : Instr} {s t : State} (h : exec i s = .next t) :
    (s.pending = none ∧ t = s) ∨ ∃ p, s.pending = some p ∧ Effect s p i t := by
  cases hp : s.pending with
  | none =>
    cases (exec_idle hp i).symm.trans h
    exact .inl ⟨rfl, rfl⟩
  | some p =>
    obtain ⟨u, hu, he⟩ := exec_effect hp i
    cases hu.symm.trans h
    exact .inr ⟨p, rfl, he⟩

/-- The fields that no command writes, whatever its outcome (R45): CTRL, OVR, the ARG registers, the parameters, the model's own
counters, and the bus. -/
def State.hostSide (s : State) : Bool × BitVec 5 × Bool × Args × Params × Nat × Nat × List Input × Reply :=
  (s.ctrlIe, s.ctrlShift, s.ovr, s.args, s.params, s.exchange, s.freeTag, s.inputs, s.reply)

/-- The streaming context of R33. -/
def State.stream (s : State) : Word × Word × Word × SState := (s.sacc, s.sx, s.sm, s.sstate)

theorem State.stream_eq_iff {s t : State} :
    t.stream = s.stream ↔ t.sacc = s.sacc ∧ t.sx = s.sx ∧ t.sm = s.sm ∧ t.sstate = s.sstate := by
  simp only [State.stream, Prod.mk.injEq]

section
variable {s t : State} {p : Pending} {i : Instr}

theorem Effect.hostSide_eq (he : Effect s p i t) : t.hostSide = s.hostSide := by
  cases he <;> rfl

/-- A command sets ERR or leaves it (R94, R95). -/
theorem Effect.err_of_err (he : Effect s p i t) (h : s.err = true) : t.err = true := by
  cases he with
  | failed => rfl
  | result | began | folded | waits | shares => exact h

/-- A command sets DONE or leaves it (R94, R95). -/
theorem Effect.done_of_done (he : Effect s p i t) (h : s.done = true) : t.done = true := by
  cases he with
  | failed | result | began | folded | shares => rfl
  | waits => exact h

/-- A command that is over has set DONE (R94, R95). -/
theorem Effect.done_of_completed (he : Effect s p i t) (hp : s.pending = some p) (ht : t.pending = none) :
    t.done = true := by
  cases he with
  | failed | result | began | folded | shares => rfl
  | waits => simp [hp] at ht

/-- R159: only BEGIN and FOLD write the streaming context. -/
theorem Effect.stream_eq (he : Effect s p i t) (hbegin : i ≠ .begin) (hfold : i ≠ .fold) : t.stream = s.stream := by
  cases he with
  | failed | result | waits | shares => rfl
  | began => exact absurd rfl hbegin
  | folded => exact absurd rfl hfold

/-- R36: BEGIN, FOLD and GEN do not write RESULT. -/
theorem Effect.result_eq (he : Effect s p i t) (hi : i = .begin ∨ i = .fold ∨ i = .gen) : t.result = s.result := by
  cases he with
  | failed | began | folded | waits | shares => rfl
  | result _ w hr => rcases hi with rfl | rfl | rfl <;> simp at hr

/-- FOLD does not write SX and SM (R137). -/
theorem Effect.sx_sm_of_fold (he : Effect s p .fold t) : t.sx = s.sx ∧ t.sm = s.sm := by
  cases he with
  | failed | result | folded => exact ⟨rfl, rfl⟩

/-- Only GEN writes DRAWS (R37). -/
theorem Effect.draws_eq (he : Effect s p i t) (hgen : i ≠ .gen) : t.draws = s.draws := by
  cases he with
  | failed | result | began | folded => rfl
  | waits | shares => exact absurd rfl hgen

/-- Only GEN writes OPMEM (R45). -/
theorem Effect.opmem_eq (he : Effect s p i t) (hgen : i ≠ .gen) : t.opmem = s.opmem := by
  cases he with
  | failed | result | began | folded => rfl
  | waits | shares => exact absurd rfl hgen

/-- A GEN that passes its checks writes no word outside its share and scratch regions (R155). -/
theorem genRun_read_of_outside {n k : Nat} {g : GenOps} {m m' : Memory} {ws rest : List Word}
    (hc : genCheck n g = none) (hr : genRun g m ws = some (m', rest)) (hsh : ¬ g.shares.Holds k)
    (hsc : ¬ g.scratch.Holds k) : m'.read k = m.read k := by
  obtain ⟨-, hdegree, -⟩ := genCheck_eq_none.1 hc
  refine genRun_keeps (P := fun m₁ => m₁.read k = m.read k) hdegree ?_ ?_ rfl hr
  · intro m₁ j v hj hm
    rw [Memory.read_write_of_ne m₁ v (by rintro rfl; exact hsc hj), hm]
  · intro m₁ j v hj hm
    rw [Memory.read_write_of_ne m₁ v (by rintro rfl; exact hsh hj), hm]

theorem Effect.read_of_gen_outside (he : Effect s p .gen t) {k : Nat} (hsh : ¬ p.genOps.shares.Holds k)
    (hsc : ¬ p.genOps.scratch.Holds k) : t.opmem.read k = s.opmem.read k := by
  cases he with
  | failed | result | waits => rfl
  | shares m rest hc hr => exact genRun_read_of_outside hc hr hsh hsc

/-- A GEN keeps every identity: one that writes at all has passed the overlap checks (R153, R155). -/
theorem Effect.read_of_gen_identity (he : Effect s p .gen t) {k : Nat} (hk : p.genOps.identities.Holds k) :
    t.opmem.read k = s.opmem.read k := by
  cases he with
  | failed | result | waits => rfl
  | shares m rest hc hr =>
    obtain ⟨-, -, -, hdisjoint⟩ := legal_check.2 hc
    obtain ⟨hsh, hsc, -⟩ := hdisjoint k
    exact genRun_read_of_outside hc hr (fun h => hsh ⟨hk, h⟩) (fun h => hsc ⟨hk, h⟩)

end

/-- What every command leaves unchanged, and the STATUS flags it never clears (R45, R94, R95). -/
structure CommandFrame (s t : State) : Prop where
  ctrlIe    : t.ctrlIe = s.ctrlIe
  ctrlShift : t.ctrlShift = s.ctrlShift
  ovr       : t.ovr = s.ovr
  err       : s.err = true → t.err = true
  done      : s.done = true → t.done = true
  args      : t.args = s.args
  params    : t.params = s.params
  exchange  : t.exchange = s.exchange
  freeTag   : t.freeTag = s.freeTag
  inputs    : t.inputs = s.inputs
  reply     : t.reply = s.reply

theorem CommandFrame.refl (s : State) : CommandFrame s s :=
  ⟨rfl, rfl, rfl, id, id, rfl, rfl, rfl, rfl, rfl, rfl⟩

theorem Effect.frame {s t : State} {p : Pending} {i : Instr} (he : Effect s p i t) : CommandFrame s t := by
  have hside := he.hostSide_eq
  simp only [State.hostSide, Prod.mk.injEq] at hside
  obtain ⟨hie, hshift, hovr, hargs, hparams, hexchange, htag, hinputs, hreply⟩ := hside
  exact ⟨hie, hshift, hovr, he.err_of_err, he.done_of_done, hargs, hparams, hexchange, htag, hinputs, hreply⟩

theorem exec_frame {i : Instr} {s t : State} (h : exec i s = .next t) : CommandFrame s t := by
  obtain ⟨-, rfl⟩ | ⟨p, -, he⟩ := exec_cases h
  · exact .refl _
  · exact he.frame

/-- A command keeps what its effect keeps. -/
theorem exec_keeps {α : Type} {i : Instr} {s t : State} (f : State → α) (h : exec i s = .next t)
    (hf : ∀ p, Effect s p i t → f t = f s) : f t = f s := by
  obtain ⟨-, rfl⟩ | ⟨p, -, he⟩ := exec_cases h
  · rfl
  · exact hf p he

/-- Settles O22: none of these commands is a BEGIN, a FOLD or a GEN, the only writers of the stream, DRAWS and OPMEM. -/
theorem resultCommandsFrame : Obligations.ResultCommandsFrame := by
  intro i s t hi h
  have hne : i ≠ .begin ∧ i ≠ .fold ∧ i ≠ .gen := by
    rcases hi with rfl | rfl | rfl | rfl | rfl <;> decide
  obtain ⟨hbegin, hfold, hgen⟩ := hne
  have hframe := exec_frame h
  obtain ⟨hacc, hx, hm, hst⟩ := State.stream_eq_iff.1 (exec_keeps State.stream h fun _ he => he.stream_eq hbegin hfold)
  have hdraws : t.draws = s.draws := exec_keeps State.draws h fun _ he => he.draws_eq hgen
  have hopmem : t.opmem = s.opmem := exec_keeps State.opmem h fun _ he => he.opmem_eq hgen
  exact ⟨hframe.ctrlIe, hframe.ctrlShift, hframe.ovr, hframe.err, hframe.done, hframe.args, hst, hacc, hx, hm, hdraws,
    hframe.params, hframe.exchange, hframe.freeTag, hframe.inputs, hframe.reply, fun k => by rw [hopmem]⟩

/-- Settles O23: neither BEGIN nor FOLD writes RESULT, DRAWS or OPMEM, and FOLD keeps SX and SM. -/
theorem streamCommandsFrame : Obligations.StreamCommandsFrame := by
  intro i s t hi h
  have hne : (i = .begin ∨ i = .fold ∨ i = .gen) ∧ i ≠ .gen := by
    rcases hi with rfl | rfl <;> decide
  obtain ⟨hnoResult, hgen⟩ := hne
  have hframe := exec_frame h
  have hdraws : t.draws = s.draws := exec_keeps State.draws h fun _ he => he.draws_eq hgen
  have hopmem : t.opmem = s.opmem := exec_keeps State.opmem h fun _ he => he.opmem_eq hgen
  have hresult : t.result = s.result := exec_keeps State.result h fun _ he => he.result_eq hnoResult
  have hfold : i = .fold → t.sx = s.sx ∧ t.sm = s.sm := by
    rintro rfl
    exact ⟨exec_keeps State.sx h fun _ he => he.sx_sm_of_fold.1, exec_keeps State.sm h fun _ he => he.sx_sm_of_fold.2⟩
  exact ⟨hframe.ctrlIe, hframe.ctrlShift, hframe.ovr, hframe.err, hframe.done, hframe.args, hresult, hdraws, hfold,
    hframe.params, hframe.exchange, hframe.freeTag, hframe.inputs, hframe.reply, fun k => by rw [hopmem]⟩

/-- Settles O24: a GEN writes only share and scratch words, which are no identities once its checks have passed. -/
theorem genFrame : Obligations.GenFrame := by
  intro s t p hp h
  obtain ⟨t', ht', he⟩ := exec_effect hp .gen
  cases h.symm.trans ht'
  have hframe := he.frame
  obtain ⟨hacc, hx, hm, hst⟩ := State.stream_eq_iff.1 (he.stream_eq (by decide) (by decide))
  exact ⟨hframe.ctrlIe, hframe.ctrlShift, hframe.ovr, hframe.err, hframe.done, hframe.args,
    he.result_eq (by decide), hst, hacc, hx, hm, hframe.params, hframe.exchange, hframe.freeTag, hframe.inputs,
    hframe.reply, fun _ hsh hsc => he.read_of_gen_outside hsh hsc, fun _ hk => he.read_of_gen_identity hk⟩

end Sys2Proof.Machine

namespace Sys2Proof.Machine

/-! ## Who writes the streaming context

Of the outside inputs only a reset writes what commands produce: the hardware reset, and the soft reset by a write to CTRL. -/

/-- The fields that hold what commands produce (R70). -/
def State.produced (s : State) : (Word × Word × Word × SState) × Word × Word × BitVec 4 :=
  (s.stream, s.result, s.draws, s.errcode)

/-- A decoded register stands at its own offset. -/
theorem regOffset_of_regAt {off : Nat} {r : Reg} (h : regAt off = some r) : off = regOffset r := by
  unfold regAt at h
  split at h <;> cases h <;> rfl

/-- The window decodes a register at that register's address only (R61). -/
theorem addr_of_place_reg {p : Params} {addr : Nat} {r : Reg} (h : place p addr = .reg r) :
    addr = p.base + regOffset r := by
  unfold place at h
  simp only at h
  split at h
  · cases h
  · rename_i hbase
    split at h
    · split at h
      · rename_i r' hr
        cases h
        have hoff := regOffset_of_regAt hr
        omega
      · cases h
    · split at h <;> cases h

theorem State.writeReg_produced {s : State} {r : Reg} {w : Word} (h : r = .ctrl → srstBit w = false) :
    (s.writeReg r w).produced = s.produced := by
  cases r with
  | ctrl => simp only [State.writeReg, State.writeCtrl, h rfl]; rfl
  | cmd => simp only [State.writeReg, State.writeCmd]; split <;> rfl
  | _ => rfl

theorem State.accessPlace_produced {s : State} {pl : Place} {d : Direction}
    (h : ∀ w, pl = .reg .ctrl → d = .write w → srstBit w = false) : (s.accessPlace pl d).produced = s.produced := by
  cases pl with
  | reg r =>
    cases d with
    | read => rfl
    | write w => exact State.writeReg_produced (s := s) (fun hr => h w (hr ▸ rfl) rfl)
  | reserved => cases d <;> rfl
  | opmem k => cases d <;> (simp only [State.accessPlace]; split <;> rfl)
  | outside => rfl

theorem State.hostAccess_produced {s : State} {a : Access} (h : ¬ SoftResets s (.access a)) :
    (s.hostAccess a).produced = s.produced := by
  unfold State.hostAccess
  split
  · split
    · rename_i haligned
      refine State.accessPlace_produced fun w hplace hdir => Bool.eq_false_iff.2 fun hw => h ⟨w, hw, ?_⟩
      obtain ⟨addr, bits, dir⟩ := a
      have hbits : bits = 32 := (Access.aligned32_iff.1 haligned).1
      have haddr : addr = s.params.base + 0x004 := addr_of_place_reg hplace
      have hdir : dir = .write w := hdir
      rw [hbits, haddr, hdir]
    · rfl
  · rfl

theorem State.pollStatus_produced (s : State) : s.pollStatus.produced = s.produced := by
  have hread : ¬ SoftResets s (.access { addr := targetAddr s.params (.reg .status), bits := 32, dir := .read }) := by
    rintro ⟨w, -, hw⟩
    simp at hw
  unfold State.pollStatus
  simp only
  split <;> exact State.hostAccess_produced hread

/-- No outside input but a reset writes what commands produce (R33, R70). -/
theorem State.outside_produced {s : State} {x : Input} (hhard : x ≠ .hardReset) (hsoft : ¬ SoftResets s x) :
    (s.outside x).produced = s.produced := by
  cases x with
  | engine => rfl
  | access a => exact State.hostAccess_produced hsoft
  | burst beats =>
    simp only [State.outside, State.hostBurst]
    split
    · rfl
    · split <;> rfl
  | wait => exact s.pollStatus_produced
  | sample n w =>
    simp only [State.outside, State.takeSample]
    split <;> rfl
  | hardReset => exact absurd rfl hhard

/-- An Engine slot changes the streaming context only by a BEGIN or a FOLD (R135, R159). -/
theorem engineSlot_stream_ne {s t : State} (h : engineSlot s = .next t) (hne : t.stream ≠ s.stream) :
    ∃ p, s.pending = some p ∧ (decode p.cmd = .ok .begin ∨ decode p.cmd = .ok .fold) := by
  obtain ⟨t', ht', hcases⟩ := engineSlot_cases s
  cases h.symm.trans ht'
  obtain ⟨-, rfl⟩ | ⟨p, hp, ⟨i, hi, -, he⟩ | ⟨-, rfl⟩⟩ := hcases
  · exact absurd rfl hne
  · refine ⟨p, hp, ?_⟩
    by_contra hother
    obtain ⟨hbegin, hfold⟩ := not_or.1 hother
    exact hne (he.stream_eq (by rintro rfl; exact hbegin hi) (by rintro rfl; exact hfold hi))
  · exact absurd rfl hne

/-- Settles O25: a step is an Engine slot, which only a BEGIN or a FOLD makes change the context, or an outside input, of which
only a reset does. -/
theorem onlyBeginFoldOrResetChangesTheStream : Obligations.OnlyBeginFoldOrResetChangesTheStream := by
  intro s t h hne
  rw [← State.stream_eq_iff] at hne
  obtain ⟨hin, hs⟩ | ⟨rest, hin, hs⟩ | ⟨x, rest, hin, -, hs⟩ := step_cases s
  · exact .inl ⟨.inl hin, engineSlot_stream_ne (hs.symm.trans h) hne⟩
  · exact .inl ⟨.inr ⟨rest, hin⟩, engineSlot_stream_ne (s := s.setInputs rest) (hs.symm.trans h) hne⟩
  · refine .inr ⟨x, rest, hin, ?_⟩
    by_contra hother
    obtain ⟨hhard, hsoft⟩ := not_or.1 hother
    cases hs.symm.trans h
    exact hne (congrArg Prod.fst (State.outside_produced (s := s.setInputs rest) hhard hsoft))

/-! ## A running command reads only its snapshot -/

/-- A meaning that maps the snapshot to the same next state but for the live ARG and CTRL values does not read them (R42). -/
theorem State.withCommand_setLive {s : State} {p : Pending} (hp : s.pending = some p) {k k' : Pending → State} {a : Args}
    {ie : Bool} {shift : BitVec 5} (hk : k' p = ((k p).setArgs a).setCtrl ie shift) :
    ∃ t, s.withCommand k = .next t ∧
      ((s.setArgs a).setCtrl ie shift).withCommand k' = .next ((t.setArgs a).setCtrl ie shift) :=
  ⟨k p, State.withCommand_some hp k, hk ▸ State.withCommand_some (s := (s.setArgs a).setCtrl ie shift) hp k'⟩

/-- Settles O27: each command's checks, result and error depend on the snapshot and on fields other than ARG and CTRL. -/
theorem runningCommandReadsOnlyItsSnapshot : Obligations.RunningCommandReadsOnlyItsSnapshot := by
  intro i s p a ie shift hp
  cases i with
  | reduce | fmul | fadd | begin =>
    refine State.withCommand_setLive hp ?_
    dsimp only
    split <;> rfl
  | curres =>
    refine State.withCommand_setLive hp ?_
    by_cases hst : s.sstate = .uninit <;>
      simp only [State.setCtrl_sstate, State.setArgs_sstate, hst, if_true, if_false] <;> rfl
  | eval =>
    refine State.withCommand_setLive hp ?_
    dsimp only
    split
    · rfl
    · by_cases hr : p.evalOps.region.inRange s.params.nOpmem = true <;>
        simp only [State.setCtrl_params, State.setArgs_params, hr, if_true] <;> rfl
  | fold =>
    refine State.withCommand_setLive hp ?_
    by_cases hst : s.sstate = .uninit
    · simp only [State.setCtrl_sstate, State.setArgs_sstate, hst, if_true]
      rfl
    · by_cases hm : s.sm = 0 <;>
        simp only [State.setCtrl_sstate, State.setArgs_sstate, State.setCtrl_sm, State.setArgs_sm, hst, hm, if_true,
          if_false] <;> rfl
  | gen =>
    refine State.withCommand_setLive hp ?_
    simp only [State.setCtrl_params, State.setArgs_params, State.setCtrl_opmem, State.setArgs_opmem,
      State.setCtrl_drawn, State.setArgs_drawn]
    split
    · rfl
    · split <;> rfl

end Sys2Proof.Machine

namespace Sys2Proof.Machine

/-! ## Resets

Every reset gives the registers the values of `State.resetWith`, which is sound for legal parameters. -/

theorem State.atResetValues_resetWith (p : Params) (tag : Nat) : AtResetValues (State.resetWith p tag) :=
  ⟨rfl, rfl, rfl, rfl, rfl, rfl, rfl, rfl, rfl, rfl, rfl, rfl, rfl, rfl, rfl⟩

theorem State.atResetValues_hardReset (s : State) : AtResetValues s.hardReset :=
  State.atResetValues_resetWith s.params s.freeTag

theorem State.atResetValues_softReset (s : State) : AtResetValues s.softReset :=
  State.atResetValues_resetWith s.params s.freeTag

/-- Settles O40: every reset is `resetWith` in the registers. -/
theorem resetValuesOfRegisters : Obligations.ResetValuesOfRegisters :=
  ⟨State.atResetValues_resetWith Config.params 0, fun s => ⟨s.atResetValues_hardReset, s.atResetValues_softReset⟩⟩

/-- The free parameters are legal whatever the picks (R9). -/
theorem configParams_wellFormed : Config.params.WellFormed := by
  have hpick : Config.opmemPick % 2 ^ 20 < 2 ^ 20 := Nat.mod_lt _ (by decide)
  exact ⟨Nat.sub_pos_of_lt hpick, Nat.sub_le _ _, Nat.mul_mod_left _ _⟩

/-- Settles O49: `resetWith` is sound for legal parameters, and the free ones are legal. -/
theorem resetStateIsSound : Obligations.ResetStateIsSound :=
  State.resetWith_inv configParams_wellFormed 0

/-- What is looked up was listed. -/
theorem mem_of_lookupCell {l : List (Nat × Content)} {k : Nat} {c : Content} (h : lookupCell l k = some c) :
    (k, c) ∈ l := by
  induction l with
  | nil => simp [lookupCell] at h
  | cons e rest ih =>
    obtain ⟨a, d⟩ := e
    simp only [lookupCell] at h
    split at h
    · rename_i hak
      cases h
      exact hak ▸ List.mem_cons_self
    · exact List.mem_cons_of_mem _ (ih h)

/-- In a sound memory every word's free value has an old tag (R73, R203). -/
theorem Memory.Sound.tagBelow_contentAt {n tag : Nat} {m : Memory} (h : m.Sound n tag) (k : Nat) :
    (m.contentAt k).tagBelow tag := by
  unfold Memory.contentAt
  cases hk : lookupCell m.cells k with
  | none => exact h.epoch
  | some c => exact h.tags _ (mem_of_lookupCell hk)

/-- Settles O41: after a hardware reset no word is listed, and no word of a sound state has the next tag. -/
theorem hardResetFromAnyState : Obligations.HardResetFromAnyState := by
  intro s rest hs hin
  refine ⟨(s.setInputs rest).hardReset, by simp [step, hin, State.outside], State.atResetValues_hardReset _, rfl, rfl,
    fun _ => rfl, fun k hk => ?_⟩
  have htag := hs.opmemSound.tagBelow_contentAt k
  rw [hk] at htag
  exact Nat.lt_irrefl _ htag

/-! ## The register map

Each register access is one step (`step_reg`); what remains of each statement is the word read or the field written. -/

/-- OPMEM_WORDS holds every legal N_OPMEM (R9, R39). -/
theorem State.readReg_opmemWords_toNat {s : State} (h : s.params.WellFormed) :
    (s.readReg .opmemWords).toNat = s.params.nOpmem := by
  obtain ⟨-, hmax, -⟩ := h
  exact BitVec.toNat_ofNat _ _ ▸ Nat.mod_eq_of_lt (by omega)

/-- Settles O30: the step of a register read answers `readReg`, whose cases are the register map. -/
theorem registerReadsGiveTheirValues : Obligations.RegisterReadsGiveTheirValues := by
  intro s r rest hp hin
  refine ⟨s.readReg r, step_reg r hp hin, ?_⟩
  have hwords : r = .opmemWords → (s.readReg r).toNat = s.params.nOpmem := by
    rintro rfl
    exact State.readReg_opmemWords_toNat hp
  refine ⟨?_, ?_, hwords, ?_, ?_, ?_, ?_, ?_, ?_, ?_, ?_, ?_, ?_, ?_, ?_, ?_⟩ <;> · rintro rfl; rfl

/-! ### The fields of STATUS and CTRL -/

/-- A field put below a word of `i` significant bits. -/
theorem toNat_append_lt {m n i : Nat} {x : BitVec m} (h : x.toNat < 2 ^ i) (y : BitVec n) :
    (x ++ y).toNat < 2 ^ (n + i) := by
  rw [BitVec.toNat_append]
  exact Nat.append_lt y.isLt h

theorem State.statusWord_lt (s : State) : s.statusWord.toNat < 2 ^ 10 :=
  have hzero : (0#22).toNat < 2 ^ 0 := by decide
  have hsstate := toNat_append_lt hzero s.sstate.code
  have herrcode := toNat_append_lt hsstate s.errcode
  have hovr := toNat_append_lt herrcode (BitVec.ofBool s.ovr)
  have herr := toNat_append_lt hovr (BitVec.ofBool s.err)
  have hdone := toNat_append_lt herr (BitVec.ofBool s.done)
  toNat_append_lt hdone (BitVec.ofBool s.busy)

theorem State.ctrlWord_lt (s : State) : s.ctrlWord.toNat < 2 ^ 13 :=
  have hzero : (0#19).toNat < 2 ^ 0 := by decide
  have hshift := toNat_append_lt hzero s.ctrlShift
  have hreserved := toNat_append_lt hshift 0#6
  have hie := toNat_append_lt hreserved (BitVec.ofBool s.ctrlIe)
  toNat_append_lt hie 0#1

/-- The four flags, of which each is the low bit of the word without the flags below it. -/
theorem State.statusWord_flags (s : State) : s.statusWord.getLsbD 0 = s.busy ∧ s.statusWord.getLsbD 1 = s.done ∧
    s.statusWord.getLsbD 2 = s.err ∧ s.statusWord.getLsbD 3 = s.ovr := by
  refine ⟨BitVec.getLsbD_concat_zero, ?_, ?_, ?_⟩
  · exact BitVec.getLsbD_concat_succ.trans BitVec.getLsbD_concat_zero
  · exact BitVec.getLsbD_concat_succ.trans (BitVec.getLsbD_concat_succ.trans BitVec.getLsbD_concat_zero)
  · exact BitVec.getLsbD_concat_succ.trans
      (BitVec.getLsbD_concat_succ.trans (BitVec.getLsbD_concat_succ.trans BitVec.getLsbD_concat_zero))

theorem State.statusWord_errcode (s : State) : s.statusWord.extractLsb' 4 4 = s.errcode := by
  unfold State.statusWord
  iterate 4 rw [BitVec.extractLsb'_append_eq_of_le (by decide)]
  exact BitVec.extractLsb'_append_eq_right

theorem State.statusWord_sstate (s : State) : s.statusWord.extractLsb' 8 2 = s.sstate.code := by
  unfold State.statusWord
  iterate 5 rw [BitVec.extractLsb'_append_eq_of_le (by decide)]
  exact BitVec.extractLsb'_append_eq_right

theorem State.ctrlWord_flags (s : State) : s.ctrlWord.getLsbD 0 = false ∧ s.ctrlWord.getLsbD 1 = s.ctrlIe := by
  unfold State.ctrlWord
  constructor
  · rw [BitVec.getLsbD_append]
    rfl
  · rw [BitVec.getLsbD_append, if_neg (by decide)]
    exact BitVec.getLsbD_concat_zero

theorem State.ctrlWord_reserved (s : State) : s.ctrlWord.extractLsb' 2 6 = 0 := by
  unfold State.ctrlWord
  iterate 2 rw [BitVec.extractLsb'_append_eq_of_le (by decide)]
  exact BitVec.extractLsb'_append_eq_right

theorem State.ctrlWord_shift (s : State) : s.ctrlWord.extractLsb' 8 5 = s.ctrlShift := by
  unfold State.ctrlWord
  iterate 3 rw [BitVec.extractLsb'_append_eq_of_le (by decide)]
  exact BitVec.extractLsb'_append_eq_right

/-- Settles O31: the fields of the word read, its reset value, and the step of a STATUS write, which is `writeStatus`. -/
theorem statusFieldsAndWriteOneToClear : Obligations.StatusFieldsAndWriteOneToClear := by
  refine ⟨fun s => ?_, by decide, fun s w rest hp hin => step_reg .status hp hin⟩
  obtain ⟨hbusy, hdone, herr, hovr⟩ := s.statusWord_flags
  exact ⟨hbusy, hdone, herr, hovr, s.statusWord_errcode, s.statusWord_sstate, s.statusWord_lt⟩

/-! ### Writes to the register map -/

/-- Settles O32: the fields of the word read, and the step of a CTRL write, by its bit 0. -/
theorem ctrlFieldsAndSoftResetBit : Obligations.CtrlFieldsAndSoftResetBit := by
  refine ⟨fun s => ?_, fun s w rest hp hin => ⟨fun hw => ⟨?_, State.atResetValues_softReset _, ?_⟩, fun hw => ?_⟩⟩
  · obtain ⟨hsrst, hie⟩ := s.ctrlWord_flags
    exact ⟨hsrst, hie, s.ctrlWord_reserved, s.ctrlWord_shift, s.ctrlWord_lt⟩
  · rw [step_reg .ctrl hp hin]
    simp only [State.accessPlace, State.writeReg, State.writeCtrl, srstBit, hw, if_true]
  · simp [State.ctrlWord, State.softReset, State.resetWith]
  · rw [step_reg .ctrl hp hin]
    simp only [State.accessPlace, State.writeReg, State.writeCtrl, srstBit, hw]
    rfl

/-- Settles O35: the step of a write to each ARG register, and the frame of every command. -/
theorem onlyTheHostWritesArgRegisters : Obligations.OnlyTheHostWritesArgRegisters := by
  refine ⟨fun s w rest n hp hn hin => ?_, fun i s t h => (exec_frame h).args⟩
  match n, hn with
  | 0, _ => exact step_reg .arg0 hp hin
  | 1, _ => exact step_reg .arg1 hp hin
  | 2, _ => exact step_reg .arg2 hp hin
  | 3, _ => exact step_reg .arg3 hp hin
  | 4, _ => exact step_reg .arg4 hp hin
  | 5, _ => exact step_reg .arg5 hp hin

/-- R61: no register stands at or above offset 0x040. -/
theorem regAt_reserved {off : Nat} (h : 0x040 ≤ off) : regAt off = none := by
  cases hr : regAt off with
  | none => rfl
  | some r =>
    have hoff := regOffset_of_regAt hr
    cases r <;> simp only [regOffset] at hoff <;> omega

/-- R41: the registers at the read-only offsets ignore writes. -/
theorem regAt_readOnly {off : Nat} (h4 : off % 4 = 0) (h : off = 0x000 ∨ (0x028 ≤ off ∧ off ≤ 0x03C)) :
    ∃ r, regAt off = some r ∧ ∀ (s : State) (w : Word), s.writeReg r w = s := by
  have hoff : off = 0x000 ∨ off = 0x028 ∨ off = 0x02C ∨ off = 0x030 ∨ off = 0x034 ∨ off = 0x038 ∨ off = 0x03C := by
    omega
  obtain rfl | rfl | rfl | rfl | rfl | rfl | rfl := hoff <;> exact ⟨_, rfl, fun _ _ => rfl⟩

/-- Settles O36: an offset is reserved, where writes reach no register, or that of a register that ignores them. -/
theorem reservedAndReadOnlyIgnoreWrites : Obligations.ReservedAndReadOnlyIgnoreWrites := by
  intro s off rest w hp h4
  refine ⟨fun hlo hhi hin => ?_, fun hoff hin => ?_⟩
  · rw [step_low hp (by omega) h4 hin, regAt_reserved hlo]
    rfl
  · rw [step_low hp (by omega) h4 hin]
    obtain ⟨hlo, -⟩ | hro := hoff
    · rw [regAt_reserved hlo]
      rfl
    · obtain ⟨r, hr, hkeep⟩ := regAt_readOnly h4 hro
      rw [hr]
      simp only [State.accessPlace, hkeep]

/-! ### The interrupt output -/

theorem State.irq_writeStatus (s : State) (w : Word) : (s.writeStatus w).irq = (s.irq && !w.getLsbD 1) := by
  simp [State.irq, w1c, Bool.and_assoc]

theorem State.irq_writeCtrl {s : State} {w : Word} (hw : w.getLsbD 0 = false) :
    (s.writeCtrl w).irq = (w.getLsbD 1 && s.done) := by
  simp only [State.writeCtrl, srstBit, hw]
  rfl

theorem State.irq_writeCmd (s : State) (w : Word) : (s.writeCmd w).irq = s.irq := by
  unfold State.writeCmd
  split <;> rfl

/-- Settles O39: a completion sets DONE and keeps CTRL.IE, so IRQ is CTRL.IE; a host write changes IRQ by the bits it writes. -/
theorem interruptIsDoneAndEnabled : Obligations.InterruptIsDoneAndEnabled := by
  refine ⟨fun i s t p hp h ht => ?_, State.irq_writeStatus, fun _ _ => State.irq_writeCtrl, State.irq_writeCmd⟩
  obtain ⟨t', ht', he⟩ := exec_effect hp i
  cases h.symm.trans ht'
  rw [State.irq, he.done_of_completed hp ht, he.frame.ctrlIe, Bool.and_true]

/-! ## The word placed for the next step -/

/-- The byte lanes of a word, lowest first, make up the word (R63). -/
theorem ofLanes_byteLane (w : Word) : ofLanes (byteLane w 0) (byteLane w 1) (byteLane w 2) (byteLane w 3) = w := by
  unfold ofLanes byteLane
  rw [BitVec.extractLsb'_append_extractLsb'_eq_extractLsb' (by rfl),
    BitVec.extractLsb'_append_extractLsb'_eq_extractLsb' (by rfl),
    BitVec.extractLsb'_append_extractLsb'_eq_extractLsb' (by rfl)]
  exact BitVec.extractLsb'_eq_self

/-- The table's bits decode as the command word they stand for (R63, R80). -/
theorem decode_of_decodeTableWord {nbits w : Nat} {i : Instr} (h : decodeTableWord nbits w = some i) :
    decode (tableWord nbits w) = .ok i := by
  simp only [decodeTableWord, decodeBytes, ofLanes_byteLane] at h
  split at h
  · rename_i j hj
    cases h
    exact hj
  · cases h

/-- An Engine slot runs the pending command (R92). -/
theorem engineSlot_of_decode {s : State} {p : Pending} {i : Instr} (hp : s.pending = some p) (hd : decode p.cmd = .ok i) :
    engineSlot s = exec i s := by
  simp only [engineSlot, hp, hd]

/-- Settles O6: the step takes the Engine slot that withFetchWord lists, in which the word just issued is pending. -/
theorem fetchedWordRunsNext : Obligations.FetchedWordRunsNext := by
  intro s w i h
  have hslot : step (s.withFetchWord 32 w) = engineSlot (s.issue (tableWord 32 w)) := rfl
  exact hslot.trans (engineSlot_of_decode (s.issue_pending _) (decode_of_decodeTableWord h))

end Sys2Proof.Machine

namespace Sys2Proof.Machine

/-! ## What a host access, a poll and a burst can do

A host access only answers, writes a register, or, with the machine idle, writes an OPMEM word; a read, a poll and the arrival of
a burst only answer and list inputs. Each is said once here, and the statements about the bus follow from it. -/

/-- What an access at a decoded place can do (R66, R67, R68). -/
theorem State.accessPlace_cases (s : State) (pl : Place) (d : Direction) :
    (∃ r, s.accessPlace pl d = s.setReply r) ∨
    (∃ r w, pl = .reg r ∧ d = .write w ∧ s.accessPlace pl d = (s.writeReg r w).setReply .accepted) ∨
    (∃ k w, d = .write w ∧ s.busy = false ∧
      s.accessPlace pl d = (s.setOpmem (s.opmem.write k w)).setReply .accepted) := by
  cases pl with
  | reg r =>
    cases d with
    | read => exact .inl ⟨_, rfl⟩
    | write w => exact .inr (.inl ⟨r, w, rfl, rfl, rfl⟩)
  | reserved => cases d <;> exact .inl ⟨_, rfl⟩
  | opmem k =>
    simp only [State.accessPlace]
    cases hb : s.busy with
    | true => cases d <;> exact .inl ⟨_, rfl⟩
    | false =>
      cases d with
      | read => exact .inl ⟨_, rfl⟩
      | write w => exact .inr (.inr ⟨k, w, rfl, rfl, rfl⟩)
  | outside => exact .inl ⟨_, rfl⟩

/-- What a host access can do; one that writes a register is the 32-bit write at that register's address (R61, R62). -/
theorem State.hostAccess_cases (s : State) (a : Access) :
    (∃ r, s.hostAccess a = s.setReply r) ∨
    (∃ r w, a = ⟨s.params.base + regOffset r, 32, .write w⟩ ∧
      s.hostAccess a = (s.writeReg r w).setReply .accepted) ∨
    (∃ k w, a.dir = .write w ∧ s.busy = false ∧
      s.hostAccess a = (s.setOpmem (s.opmem.write k w)).setReply .accepted) := by
  unfold State.hostAccess
  split
  · split
    · rename_i haligned
      obtain hreply | ⟨r, w, hplace, hdir, heq⟩ | hopmem := s.accessPlace_cases (place s.params a.addr) a.dir
      · exact .inl hreply
      · obtain ⟨addr, bits, dir⟩ := a
        obtain rfl : bits = 32 := (Access.aligned32_iff.1 haligned).1
        obtain rfl : addr = _ := addr_of_place_reg hplace
        obtain rfl : dir = .write w := hdir
        exact .inr (.inl ⟨r, w, rfl, heq⟩)
      · exact .inr (.inr hopmem)
    · exact .inl ⟨_, rfl⟩
  · exact .inl ⟨_, rfl⟩

/-- A read changes nothing but the answer (R67). -/
theorem State.hostAccess_of_read {s : State} {a : Access} (h : a.dir = .read) :
    ∃ r, s.hostAccess a = s.setReply r := by
  obtain hreply | ⟨r, w, rfl, -⟩ | ⟨k, w, hw, -⟩ := s.hostAccess_cases a
  · exact hreply
  · cases h
  · cases h.symm.trans hw

/-- A poll changes nothing but the answer and the inputs (R88). -/
theorem State.pollStatus_eq (s : State) : ∃ l r, s.pollStatus = (s.setInputs l).setReply r := by
  obtain ⟨r, hr⟩ := State.hostAccess_of_read
    (s := s) (a := { addr := targetAddr s.params (.reg .status), bits := 32, dir := .read }) rfl
  unfold State.pollStatus
  simp only [hr]
  split
  · exact ⟨_, r, rfl⟩
  · exact ⟨s.inputs, r, rfl⟩

/-- The arrival of a burst changes nothing but the answer and the inputs (R62). -/
theorem State.hostBurst_eq (s : State) (beats : List Access) :
    ∃ l r, s.hostBurst beats = (s.setInputs l).setReply r := by
  unfold State.hostBurst
  split
  · exact ⟨beats.map .access ++ s.inputs, s.reply, rfl⟩
  · split
    · exact ⟨s.inputs, _, rfl⟩
    · exact ⟨s.inputs, _, rfl⟩

/-- An access of the window that is not 32 bits at a multiple of 4 is refused (R62). -/
theorem State.hostAccess_of_refused {s : State} {a : Access} (hwin : a.InWindow s.params)
    (hbad : ¬ (a.bits = 32 ∧ a.addr % 4 = 0)) : s.hostAccess a = s.setReply .busError := by
  rw [State.hostAccess, if_pos (Access.meets_iff.2 hwin), if_neg fun h => hbad (Access.aligned32_iff.1 h)]

/-- An access with no byte in the window is not decoded (R61). -/
theorem State.hostAccess_of_outside {s : State} {a : Access} (hout : ¬ a.InWindow s.params) :
    s.hostAccess a = s.setReply .notDecoded := by
  rw [State.hostAccess, if_neg fun h => hout (Access.meets_iff.1 h)]

/-- A burst of aligned 32-bit beats is its beats, next in order (R62, R69). -/
theorem State.hostBurst_of_aligned {s : State} {beats : List Access}
    (h : ∀ b ∈ beats, b.bits = 32 ∧ b.addr % 4 = 0) :
    s.hostBurst beats = s.setInputs (beats.map .access ++ s.inputs) := by
  rw [State.hostBurst, if_pos (List.all_eq_true.2 fun b hb => Access.aligned32_iff.2 (h b hb))]

/-- A burst with a beat of another form takes no effect: only its answer depends on whether a beat reaches the window (R62). -/
theorem State.hostBurst_of_refused {s : State} {beats : List Access}
    (h : ∃ b ∈ beats, ¬ (b.bits = 32 ∧ b.addr % 4 = 0)) :
    ((∃ b ∈ beats, b.InWindow s.params) → s.hostBurst beats = s.setReply .busError) ∧
    ((∀ b ∈ beats, ¬ b.InWindow s.params) → s.hostBurst beats = s.setReply .notDecoded) := by
  obtain ⟨b, hb, hbad⟩ := h
  have hall : ¬ beats.all Access.aligned32 = true := fun hall =>
    hbad (Access.aligned32_iff.1 (List.all_eq_true.1 hall b hb))
  have hany : beats.any (fun c => c.meets s.params) = true ↔ ∃ c ∈ beats, c.InWindow s.params := by
    simp only [List.any_eq_true, Access.meets_iff]
  rw [State.hostBurst, if_neg hall]
  refine ⟨fun hin => if_pos (hany.2 hin), fun hout => if_neg fun hmeets => ?_⟩
  obtain ⟨c, hc, hwin⟩ := hany.1 hmeets
  exact hout c hc hwin

/-- The arrival of a burst is one step. -/
theorem step_burst {s : State} {beats : List Access} {rest : List Input} (h : s.inputs = .burst beats :: rest) :
    step s = .next ((s.setInputs rest).hostBurst beats) := by
  simp only [step, h, State.outside]

/-- A poll of WAIT is one step. -/
theorem step_wait {s : State} {rest : List Input} (h : s.inputs = .wait :: rest) :
    step s = .next (s.setInputs rest).pollStatus := by
  simp only [step, h, State.outside]

/-! ### Reads, refusals and OPMEM accesses -/

/-- Settles O38: each of these inputs gives the state with other inputs and another answer. -/
theorem readsHaveNoSideEffect : Obligations.ReadsHaveNoSideEffect := by
  intro s t rest h
  refine ⟨?_, fun hin => ?_, fun beats hin => ?_⟩
  · rintro ⟨a, hdir, hin⟩
    obtain ⟨r, hr⟩ := State.hostAccess_of_read (s := s.setInputs rest) hdir
    rw [step_access hin, hr] at h
    cases h
    rfl
  · obtain ⟨l, r, hr⟩ := (s.setInputs rest).pollStatus_eq
    rw [step_wait hin, hr] at h
    cases h
    rfl
  · obtain ⟨l, r, hr⟩ := (s.setInputs rest).hostBurst_eq beats
    rw [step_burst hin, hr] at h
    cases h
    rfl

/-- Settles O28: the access is refused or not decoded in its step. -/
theorem refusedAccessHasNoEffect : Obligations.RefusedAccessHasNoEffect := by
  intro s a rest hin
  rw [step_access hin]
  exact ⟨fun hwin hbad => congrArg _ (State.hostAccess_of_refused (s := s.setInputs rest) hwin hbad),
    fun hout => congrArg _ (State.hostAccess_of_outside (s := s.setInputs rest) hout)⟩

/-- Settles O55: the arrival of the burst lists its beats, or answers only. -/
theorem burstIsItsBeatsOrRefused : Obligations.BurstIsItsBeatsOrRefused := by
  intro s beats rest hin
  rw [step_burst hin]
  refine ⟨fun h => congrArg _ (State.hostBurst_of_aligned (s := s.setInputs rest) h), fun h => ?_⟩
  obtain ⟨hrefused, houtside⟩ := State.hostBurst_of_refused (s := s.setInputs rest) h
  exact ⟨fun hwin => congrArg _ (hrefused hwin), fun hout => congrArg _ (houtside hout)⟩

/-- Settles O29: the step of an OPMEM access tests BUSY, that of a register access does not. -/
theorem opmemIsRefusedWhileBusy : Obligations.OpmemIsRefusedWhileBusy := by
  intro s rest d hp
  refine ⟨fun k hk hbusy hin => ?_, fun r hin => ⟨_, step_reg r hp hin, ?_⟩⟩
  · rw [step_opmem hp hk hin]
    cases d <;> simp only [State.accessPlace, State.setInputs_busy, hbusy, if_true]
  · cases d with
    | read => exact .inr ⟨_, rfl⟩
    | write w => exact .inl rfl

/-- An OPMEM write while idle is one step (R64, R67). -/
theorem step_opmem_write {s : State} {k : Nat} {v : Word} {rest : List Input} (hp : s.params.WellFormed)
    (hbusy : s.busy = false) (hk : k < s.params.nOpmem)
    (hin : s.inputs = .access ⟨s.params.base + (0x1000 + 4 * k), 32, .write v⟩ :: rest) :
    step s = .next { s with opmem := s.opmem.write k v, inputs := rest, reply := .accepted } := by
  rw [step_opmem hp hk hin, State.accessPlace, if_neg (by simp [hbusy])]
  rfl

/-- An OPMEM read while idle is one step (R64, R67). -/
theorem step_opmem_read {s : State} {k : Nat} {rest : List Input} (hp : s.params.WellFormed)
    (hbusy : s.busy = false) (hk : k < s.params.nOpmem)
    (hin : s.inputs = .access ⟨s.params.base + (0x1000 + 4 * k), 32, .read⟩ :: rest) :
    step s = .next { s with inputs := rest, reply := .data (s.opmem.read k) } := by
  rw [step_opmem hp hk hin, State.accessPlace, if_neg (by simp [hbusy])]
  rfl

/-- Settles O37: the two steps, and the law of a read after a write. -/
theorem opmemWriteThenRead : Obligations.OpmemWriteThenRead := by
  intro s k j v rest hp hbusy hk hj hin
  refine ⟨s.opmem.write k v, ?_, fun l => s.opmem.read_write k v l⟩
  rw [← Memory.read_write]
  refine (core_run_succ (step_opmem_write hp hbusy hk hin) 1).trans (core_run_succ ?_ 0)
  exact step_opmem_read hp hbusy hj rfl

/-! ### Effects of a command appear only at its completion -/

/-- The command in progress and the memory it works on: BUSY, the pending command and OPMEM (R93). -/
def State.running (s : State) : Bool × Option Pending × Memory := (s.busy, s.pending, s.opmem)

section
variable {s : State} (hbusy : s.busy = true)
include hbusy

theorem State.writeReg_running {r : Reg} {w : Word} (h : r = .ctrl → srstBit w = false) :
    (s.writeReg r w).running = s.running := by
  cases r with
  | ctrl => simp only [State.writeReg, State.writeCtrl, h rfl]; rfl
  | cmd => simp only [State.writeReg, State.writeCmd, hbusy]; rfl
  | _ => rfl

theorem State.hostAccess_running {a : Access} (h : ¬ SoftResets s (.access a)) :
    (s.hostAccess a).running = s.running := by
  obtain ⟨r, heq⟩ | ⟨r, w, rfl, heq⟩ | ⟨k, w, -, hidle, -⟩ := s.hostAccess_cases a
  · rw [heq]
    rfl
  · have hsrst : r = .ctrl → srstBit w = false := by
      rintro rfl
      exact Bool.eq_false_iff.2 fun hw => h ⟨w, hw, rfl⟩
    rw [heq]
    exact State.writeReg_running hbusy hsrst
  · simp [hbusy] at hidle

/-- While BUSY no outside input but a reset touches the command in progress or OPMEM (R66, R91, R93). -/
theorem State.outside_running {x : Input} (hhard : x ≠ .hardReset) (hsoft : ¬ SoftResets s x) :
    (s.outside x).running = s.running := by
  cases x with
  | engine => rfl
  | access a => exact State.hostAccess_running hbusy hsoft
  | burst beats =>
    obtain ⟨l, r, heq⟩ := s.hostBurst_eq beats
    exact (congrArg State.running heq).trans rfl
  | wait =>
    obtain ⟨l, r, heq⟩ := s.pollStatus_eq
    exact (congrArg State.running heq).trans rfl
  | sample n w =>
    simp only [State.outside, State.takeSample]
    split <;> rfl
  | hardReset => exact absurd rfl hhard

end

/-- A step whose input is no Engine slot is that input (log 1). -/
theorem step_of_outside {s : State} {x : Input} {rest : List Input} (hin : s.inputs = x :: rest) (hx : x ≠ .engine) :
    step s = .next ((s.setInputs rest).outside x) := by
  obtain ⟨hnil, -⟩ | ⟨rest', heng, -⟩ | ⟨x', rest', hin', -, hs⟩ := step_cases s
  · cases hnil.symm.trans hin
  · cases heng.symm.trans hin
    exact absurd rfl hx
  · cases hin'.symm.trans hin
    exact hs

/-- Settles O26: an outside input that is no reset keeps what commands produce, and what runs while BUSY. -/
theorem effectsAppearOnlyAtCompletion : Obligations.EffectsAppearOnlyAtCompletion := by
  intro s t x rest hin hx hhard hsoft h
  cases (step_of_outside hin hx).symm.trans h
  refine ⟨?_, fun hbusy => ?_⟩
  · have hproduced := State.outside_produced (s := s.setInputs rest) hhard hsoft
    simp only [State.produced, State.stream, Prod.mk.injEq] at hproduced
    obtain ⟨⟨hacc, hx, hm, hst⟩, hresult, hdraws, herrcode⟩ := hproduced
    exact ⟨hresult, hacc, hx, hm, hst, hdraws, herrcode⟩
  · have hrunning := State.outside_running (s := s.setInputs rest) hbusy hhard hsoft
    simp only [State.running, Prod.mk.injEq] at hrunning
    obtain ⟨hb, hpending, hopmem⟩ := hrunning
    exact ⟨hb.trans hbusy, hpending, hopmem⟩

/-! ### Encoding, and the totality of the step -/

theorem encoding_statement (i : Instr) : Laws.Encoding.Statement i := by
  cases i with
  | reduce => exact Laws.Encoding.reduce
  | fmul => exact Laws.Encoding.fmul
  | fadd => exact Laws.Encoding.fadd
  | eval => exact Laws.Encoding.eval
  | begin => exact Laws.Encoding.begin
  | fold => exact Laws.Encoding.fold
  | curres => exact Laws.Encoding.curres
  | gen => exact Laws.Encoding.gen

theorem decode_encode (i : Instr) : decode (encode i) = .ok i :=
  have ⟨_, _, hdecode, _⟩ := encoding_statement i
  hdecode

/-- Decoding a word's byte lanes decodes the word (R63). -/
theorem decodeBytes_byteLanes (w : Word) :
    decodeBytes [byteLane w 0, byteLane w 1, byteLane w 2, byteLane w 3] = decode w := by
  rw [decodeBytes, ofLanes_byteLane]

/-- Settles O2: the table's statement of each command, and the lanes of its word. -/
theorem encodeThenDecode : Obligations.EncodeThenDecode := by
  intro i
  obtain ⟨-, -, hdecode, htable⟩ := encoding_statement i
  exact ⟨hdecode, (decodeBytes_byteLanes _).trans hdecode, htable⟩

/-- Settles O51: an Engine slot answers a next state whatever is pending, and so does each outside input. -/
theorem machineNeverStops : Obligations.MachineNeverStops := by
  intro s
  obtain ⟨-, hs⟩ | ⟨rest, -, hs⟩ | ⟨x, rest, -, -, hs⟩ := step_cases s
  · obtain ⟨t, ht, -⟩ := engineSlot_cases s
    exact ⟨t, hs.trans ht⟩
  · obtain ⟨t, ht, -⟩ := engineSlot_cases (s.setInputs rest)
    exact ⟨t, hs.trans ht⟩
  · exact ⟨_, hs⟩

end Sys2Proof.Machine

namespace Sys2Proof.Machine

/-! ## Command scripts over the bus

A command's script (R88) writes its operands to the ARG registers in order, writes CMD, and polls. Run from an idle machine it
ends, idle again, in the state in which the command's meaning left the machine (`scriptRan_of_command`). -/

/-- Some number of steps leads from one state to the other. -/
abbrev Reaches : State → State → Prop := Relation.ReflTransGen fun s t => step s = .next t

theorem Reaches.exists_run {s t : State} (h : Reaches s t) : ∃ k, core.run k s = .next t := by
  induction h using Relation.ReflTransGen.head_induction_on with
  | refl => exact ⟨0, rfl⟩
  | head hstep _ ih =>
    obtain ⟨k, hk⟩ := ih
    exact ⟨k + 1, (core_run_succ hstep k).trans hk⟩

/-- A script ran from `s` to its end in `t`: the inputs listed after it come next, and the machine is idle. -/
structure ScriptRan (s : State) (rest : List Input) (t : State) : Prop where
  reaches : Reaches s t
  inputs  : t.inputs = rest
  params  : t.params = s.params
  idle    : t.Idle

theorem ScriptRan.trans {s t u : State} {l l' : List Input} (h : ScriptRan s l t) (h' : ScriptRan t l' u) :
    ScriptRan s l' u :=
  ⟨h.reaches.trans h'.reaches, h'.inputs, h'.params.trans h.params, h'.idle⟩

theorem scriptInputs_append (p : Params) (qs qs' : List Pseudo) :
    scriptInputs p (qs ++ qs') = scriptInputs p qs ++ scriptInputs p qs' := by
  simp only [scriptInputs, List.flatMap_append, List.map_append]

/-! ### The steps of a script -/

/-- The ARG registers, in the order in which scripts write them (R88). -/
def argRegs : List Reg := [.arg0, .arg1, .arg2, .arg3, .arg4, .arg5]

/-- The operands after a write of an ARG register; other registers hold no operand. -/
def Args.write (a : Args) (r : Reg) (w : Word) : Args :=
  match r with
  | .arg0 => { a with arg0 := w }
  | .arg1 => { a with arg1 := w }
  | .arg2 => { a with arg2 := w }
  | .arg3 => { a with arg3 := w }
  | .arg4 => { a with arg4 := w }
  | .arg5 => { a with arg5 := w }
  | _     => a

/-- The operands after several writes, in order. -/
def Args.writes (a : Args) (ws : List (Reg × Word)) : Args := ws.foldl (fun a e => a.write e.1 e.2) a

theorem State.writeReg_of_mem_argRegs (s : State) {r : Reg} (h : r ∈ argRegs) (w : Word) :
    s.writeReg r w = s.setArgs (s.args.write r w) := by
  simp only [argRegs, List.mem_cons, List.not_mem_nil, or_false] at h
  rcases h with rfl | rfl | rfl | rfl | rfl | rfl <;> rfl

theorem step_argWrite {s : State} {r : Reg} {w : Word} {rest : List Input} (hp : s.params.WellFormed) (hr : r ∈ argRegs)
    (hin : s.inputs = scriptInput s.params (wrReg r w) :: rest) :
    step s = .next { s with args := s.args.write r w, inputs := rest, reply := .accepted } := by
  rw [step_reg r hp hin, State.accessPlace, State.writeReg_of_mem_argRegs _ hr]
  rfl

/-- A poll of WAIT: STATUS is the answer, and with BUSY = 1 an Engine slot and another poll come next (R88, log 1). -/
theorem State.pollStatus_eq_ite {s : State} (hp : s.params.WellFormed) :
    s.pollStatus = (if s.busy then s.setInputs (.engine :: .wait :: s.inputs) else s).setReply (.data s.statusWord) := by
  have hread := host_reg (s := s) .status (d := .read) hp
  simp only [State.pollStatus, targetAddr, hread]
  split <;> rfl

/-- A poll that reads BUSY = 0 ends the WAIT (R88). -/
theorem step_wait_idle {s : State} {rest : List Input} (hp : s.params.WellFormed) (hbusy : s.busy = false)
    (hin : s.inputs = .wait :: rest) :
    step s = .next { s with inputs := rest, reply := .data s.statusWord } := by
  have hpoll := State.pollStatus_eq_ite (s := s.setInputs rest) hp
  rw [step_wait hin, hpoll, if_neg (by simp [hbusy])]
  rfl

/-- `s` with the command `i` issued on the operands `a` (R90), and with given inputs and answer. -/
def State.issued (s : State) (i : Instr) (a : Args) (l : List Input) (r : Reply) : State :=
  { s with args := a, pending := some ⟨encode i, a, s.ctrlShift⟩, busy := true, drawn := [], inputs := l, reply := r }

/-- The script's CMD write issues the command when idle (R90). -/
theorem step_cmdWrite {s : State} {i : Instr} {rest : List Input} (hp : s.params.WellFormed) (hbusy : s.busy = false)
    (hin : s.inputs = scriptInput s.params (wrReg .cmd (encode i)) :: rest) :
    step s = .next (s.issued i s.args rest .accepted) := by
  rw [step_reg .cmd hp hin, State.accessPlace, State.writeReg, State.writeCmd, if_neg (by simp [hbusy])]
  rfl

/-- A poll that reads BUSY = 1 lists an Engine slot and another poll (log 1). -/
theorem step_wait_issued {s : State} {i : Instr} {a : Args} {rest : List Input} {r : Reply} (hp : s.params.WellFormed) :
    ∃ r', step (s.issued i a (.wait :: rest) r) = .next (s.issued i a (.engine :: .wait :: rest) r') := by
  have hpoll := State.pollStatus_eq_ite (s := s.issued i a rest r) hp
  exact ⟨_, (step_wait rfl).trans (congrArg Host.Outcome.next hpoll)⟩

/-- The Engine's slot runs the issued command (R92). -/
theorem step_engine_issued (s : State) (i : Instr) (a : Args) (l : List Input) (r : Reply) :
    step (s.issued i a (.engine :: l) r) = exec i (s.issued i a l r) :=
  engineSlot_of_decode (s := s.issued i a l r) (p := ⟨encode i, a, s.ctrlShift⟩) rfl (decode_encode i)

/-! ### A command's script -/

theorem reaches_argWrites {ws : List (Reg × Word)} (hws : ∀ e ∈ ws, e.1 ∈ argRegs) {s : State} {rest : List Input}
    (hp : s.params.WellFormed)
    (hin : s.inputs = (ws.map fun e => scriptInput s.params (wrReg e.1 e.2)) ++ rest) :
    ∃ r, Reaches s { s with args := s.args.writes ws, inputs := rest, reply := r } := by
  induction ws generalizing s with
  | nil =>
    obtain rfl : s.inputs = rest := hin
    exact ⟨s.reply, .refl⟩
  | cons e ws ih =>
    obtain ⟨he, hws⟩ := List.forall_mem_cons.1 hws
    have hstep := step_argWrite hp he hin
    obtain ⟨r, hr⟩ := ih hws (s := { s with
      args := s.args.write e.1 e.2, inputs := (ws.map fun e => scriptInput s.params (wrReg e.1 e.2)) ++ rest
      reply := .accepted }) hp rfl
    exact ⟨r, .head hstep hr⟩

/-- A command other than GEN is over after its slot (R94, R95). -/
theorem Effect.idle {s t : State} {p : Pending} {i : Instr} (he : Effect s p i t) (hgen : i ≠ .gen) : t.Idle := by
  cases he with
  | failed | result | began | folded => exact ⟨rfl, rfl⟩
  | waits | shares => exact absurd rfl hgen

/-- The CMD write of a command other than GEN and the WAIT after it run to the state in which the command's meaning leaves the
machine (R90, R92). -/
theorem scriptRan_of_cmdWrite {s : State} {i : Instr} {rest : List Input} (hgen : i ≠ .gen)
    (hp : s.params.WellFormed) (hidle : s.Idle)
    (hin : s.inputs = scriptInput s.params (wrReg .cmd (encode i)) :: .wait :: rest) :
    ∃ r r' t, exec i (s.issued i s.args (.wait :: rest) r) = .next t ∧
      ScriptRan s rest { t with inputs := rest, reply := r' } := by
  have hissued : Reaches s _ := .single (step_cmdWrite hp hidle.1 hin)
  obtain ⟨r, hpoll⟩ := step_wait_issued (i := i) (a := s.args) (rest := rest) (r := .accepted) hp
  obtain ⟨t, ht, he⟩ := exec_effect (s := s.issued i s.args (.wait :: rest) r) rfl i
  have hslot := (step_engine_issued s i s.args (.wait :: rest) r).trans ht
  have htidle := he.idle hgen
  have hparams : t.params = s.params := he.frame.params
  have hdone := step_wait_idle (hparams ▸ hp) htidle.1 he.frame.inputs
  exact ⟨r, _, t, ht, ((hissued.tail hpoll).tail hslot).tail hdone, rfl, hparams, htidle⟩

/-- The script of a command other than GEN, with the operands `vs`, runs from an idle machine to the state in which the command's
meaning leaves the machine (R88). -/
theorem scriptRan_of_command {s : State} {q : Pseudo} {i : Instr} {rest : List Input} (vs : List Word)
    (hq : expand q = ((argRegs.zip vs).map fun e => wrReg e.1 e.2) ++ [wrReg .cmd (encode i), .wait]) (hgen : i ≠ .gen)
    (hp : s.params.WellFormed) (hidle : s.Idle) (hin : s.inputs = scriptInputs s.params [q] ++ rest) :
    ∃ r r' t, exec i (s.issued i (s.args.writes (argRegs.zip vs)) (.wait :: rest) r) = .next t ∧
      ScriptRan s rest { t with inputs := rest, reply := r' } := by
  have hwrites : s.inputs = ((argRegs.zip vs).map fun e => scriptInput s.params (wrReg e.1 e.2)) ++
      scriptInput s.params (wrReg .cmd (encode i)) :: .wait :: rest := by
    simp [hin, scriptInputs, hq, scriptInput, Function.comp_def]
  obtain ⟨r₀, hwritten⟩ := reaches_argWrites (fun e he => (List.of_mem_zip he).1) hp hwrites
  obtain ⟨r, r', t, ht, hran⟩ := scriptRan_of_cmdWrite (s := { s with
    args := s.args.writes (argRegs.zip vs)
    inputs := scriptInput s.params (wrReg .cmd (encode i)) :: .wait :: rest, reply := r₀ }) hgen hp hidle rfl
  exact ⟨r, r', t, ht, hwritten.trans hran.reaches, rfl, hran.params, hran.idle⟩

/-! ### What the scripted commands do -/

section
variable {s : State} {p : Pending} (hp : s.pending = some p)
include hp

theorem exec_fmul (hm : p.args.arg2 ≠ 0) :
    exec .fmul s = .next (s.setResult (fmul p.args.arg0 p.args.arg1 p.args.arg2)).complete :=
  (State.withCommand_some hp _).trans (congrArg _ (if_neg hm))

theorem exec_eval (hm : p.args.arg3 ≠ 0) (hr : p.evalOps.region.inRange s.params.nOpmem = true) :
    exec .eval s =
      .next (s.setResult (horner (s.opmem.readRegion p.evalOps.region) p.args.arg2 p.args.arg3)).complete :=
  (State.withCommand_some hp _).trans (congrArg _ ((if_neg hm).trans (if_pos hr)))

theorem exec_begin (hm : p.args.arg1 ≠ 0) :
    exec .begin s = .next (s.setStream 0 p.args.arg0 p.args.arg1 .begun).complete :=
  (State.withCommand_some hp _).trans (congrArg _ (if_neg hm))

theorem exec_fold (hst : s.sstate ≠ .uninit) (hm : s.sm ≠ 0) :
    exec .fold s =
      .next (s.setStream (hornerStep s.sacc s.sx p.args.arg0 s.sm) s.sx s.sm .folded).complete :=
  (State.withCommand_some hp _).trans (congrArg _ ((if_neg hst).trans (if_neg hm)))

theorem exec_curres (hst : s.sstate ≠ .uninit) : exec .curres s = .next (s.setResult s.sacc).complete :=
  (State.withCommand_some hp _).trans (congrArg _ (if_neg hst))

end

/-- Settles O53: the script runs to the state in which the meaning of FMUL leaves the machine. -/
theorem scriptedFmulRunsToItsResult : Obligations.ScriptedFmulRunsToItsResult := by
  intro s a b m rest hp hidle hm hin
  obtain ⟨r, r', t, ht, hran⟩ := scriptRan_of_command [a, b, m] rfl (by decide) hp hidle hin
  cases ht.symm.trans (exec_fmul rfl hm)
  obtain ⟨k, hk⟩ := hran.reaches.exists_run
  exact ⟨fmul a b m, fmul_toNat hm a b, k, _, hk, rfl, hran.idle, rfl, rfl, rfl, rfl, rfl, rfl, rfl⟩

/-! ### Bulk and streaming evaluation -/

/-- A streaming evaluation at `x` modulo `m` is open, with the accumulator `acc` (R33). -/
structure State.Streams (s : State) (acc x m : Word) : Prop where
  opened : s.sstate ≠ .uninit
  sacc   : s.sacc = acc
  sx     : s.sx = x
  sm     : s.sm = m

theorem scriptRan_begin {s : State} {x m : Word} {rest : List Input} (hp : s.params.WellFormed) (hidle : s.Idle)
    (hm : m ≠ 0) (hin : s.inputs = scriptInputs s.params [.begin x m] ++ rest) :
    ∃ t, ScriptRan s rest t ∧ t.Streams 0 x m := by
  obtain ⟨r, r', t, ht, hran⟩ := scriptRan_of_command [x, m] rfl (by decide) hp hidle hin
  cases ht.symm.trans (exec_begin rfl hm)
  exact ⟨_, hran, by simp, rfl, rfl, rfl⟩

theorem scriptRan_fold {s : State} {acc x m c : Word} {rest : List Input} (hp : s.params.WellFormed) (hidle : s.Idle)
    (hm : m ≠ 0) (hs : s.Streams acc x m) (hin : s.inputs = scriptInputs s.params [.fold c] ++ rest) :
    ∃ t, ScriptRan s rest t ∧ t.Streams (hornerStep acc x c m) x m := by
  obtain ⟨hopened, rfl, rfl, rfl⟩ := hs
  obtain ⟨r, r', t, ht, hran⟩ := scriptRan_of_command [c] rfl (by decide) hp hidle hin
  cases ht.symm.trans (exec_fold rfl hopened hm)
  exact ⟨_, hran, by simp, rfl, rfl, rfl⟩

/-- One FOLD for each coefficient runs Horner's scheme on the accumulator (R130, R137). -/
theorem scriptRan_folds {s : State} {cs : List Word} {acc x m : Word} {rest : List Input} (hp : s.params.WellFormed)
    (hidle : s.Idle) (hm : m ≠ 0) (hs : s.Streams acc x m)
    (hin : s.inputs = scriptInputs s.params (cs.map .fold) ++ rest) :
    ∃ t, ScriptRan s rest t ∧ t.Streams (cs.foldl (fun r c => hornerStep r x c m) acc) x m := by
  induction cs generalizing s acc with
  | nil => exact ⟨s, ⟨.refl, hin, rfl, hidle⟩, hs⟩
  | cons c cs ih =>
    have hin : s.inputs = scriptInputs s.params [.fold c] ++ (scriptInputs s.params (cs.map .fold) ++ rest) := by
      rw [hin, List.map_cons, ← List.singleton_append, scriptInputs_append, List.append_assoc]
    obtain ⟨t, hran, ht⟩ := scriptRan_fold hp hidle hm hs hin
    obtain ⟨u, hran', hu⟩ := ih (hran.params ▸ hp) hran.idle ht (hran.params ▸ hran.inputs)
    exact ⟨u, hran.trans hran', hu⟩

theorem scriptRan_curres {s : State} {acc x m : Word} {rest : List Input} (hp : s.params.WellFormed) (hidle : s.Idle)
    (hs : s.Streams acc x m) (hin : s.inputs = scriptInputs s.params [.curres] ++ rest) :
    ∃ t, ScriptRan s rest t ∧ t.result = acc := by
  obtain ⟨r, r', t, ht, hran⟩ := scriptRan_of_command [] rfl (by decide) hp hidle hin
  cases ht.symm.trans (exec_curres rfl hs.opened)
  exact ⟨_, hran, hs.sacc⟩

/-- BEGIN, a FOLD for each coefficient and CURRES leave Horner's value in RESULT. -/
theorem scriptRan_streaming {s : State} {cs : List Word} {x m : Word} {rest : List Input} (hp : s.params.WellFormed)
    (hidle : s.Idle) (hm : m ≠ 0)
    (hin : s.inputs = scriptInputs s.params ([.begin x m] ++ cs.map .fold ++ [.curres]) ++ rest) :
    ∃ t, ScriptRan s rest t ∧ t.result = horner cs x m := by
  simp only [scriptInputs_append, List.append_assoc] at hin
  obtain ⟨t, hbegin, ht⟩ := scriptRan_begin hp hidle hm hin
  have hpt : t.params.WellFormed := hbegin.params ▸ hp
  obtain ⟨u, hfolds, hu⟩ := scriptRan_folds hpt hbegin.idle hm ht (hbegin.params ▸ hbegin.inputs)
  obtain ⟨v, hcurres, hv⟩ := scriptRan_curres (hfolds.params ▸ hpt) hfolds.idle hu
    (hfolds.params ▸ hfolds.inputs)
  exact ⟨v, (hbegin.trans hfolds).trans hcurres, hv⟩

/-- EVAL over a region in range leaves Horner's value of its words in RESULT. -/
theorem scriptRan_eval {s : State} {len cbase x m : Word} {rest : List Input} (hp : s.params.WellFormed)
    (hidle : s.Idle) (hm : m ≠ 0) (hr : Region.inRange ⟨cbase.toNat, len.toNat⟩ s.params.nOpmem = true)
    (hin : s.inputs = scriptInputs s.params [.eval len cbase x m] ++ rest) :
    ∃ t, ScriptRan s rest t ∧ t.result = horner (s.opmem.readRegion ⟨cbase.toNat, len.toNat⟩) x m := by
  obtain ⟨r, r', t, ht, hran⟩ := scriptRan_of_command [len, cbase, x, m] rfl (by decide) hp hidle hin
  cases ht.symm.trans (exec_eval rfl hm hr)
  exact ⟨_, hran, rfl⟩

/-- Settles O54: both scripts leave Horner's value, EVAL's of the coefficients that the region holds. -/
theorem bulkAndStreamingAgree : Obligations.BulkAndStreamingAgree := by
  intro s cs cbase x m hp hidle hm hrange hcs
  have hlen : (BitVec.ofNat 32 cs.length).toNat = cs.length := by
    obtain ⟨-, hmax, -⟩ := hp
    have hsmall : cs.length < 2 ^ 32 := by
      obtain rfl | hle := hrange
      · decide
      · omega
    exact BitVec.toNat_ofNat _ _ ▸ Nat.mod_eq_of_lt hsmall
  have hregion : Region.inRange ⟨cbase.toNat, (BitVec.ofNat 32 cs.length).toNat⟩ s.params.nOpmem = true := by
    rw [hlen]
    exact Region.inRange_iff.2 (hrange.imp_left (congrArg List.length))
  obtain ⟨t₁, hran₁, hresult₁⟩ := scriptRan_streaming (cs := cs) (x := x) (m := m) (rest := [])
    (s := s.setInputs (scriptInputs s.params ([.begin x m] ++ cs.map .fold ++ [.curres]))) hp hidle hm
    (List.append_nil _).symm
  obtain ⟨t₂, hran₂, hresult₂⟩ := scriptRan_eval (len := BitVec.ofNat 32 cs.length) (x := x) (rest := [])
    (s := s.setInputs (scriptInputs s.params [.eval (BitVec.ofNat 32 cs.length) cbase x m])) hp hidle hm hregion rfl
  obtain ⟨k₁, hk₁⟩ := hran₁.reaches.exists_run
  obtain ⟨k₂, hk₂⟩ := hran₂.reaches.exists_run
  refine ⟨k₁, k₂, t₁, t₂, hk₁, hk₂, hran₁.inputs, hran₁.idle, hran₂.inputs, hran₂.idle, hresult₁, ?_⟩
  rw [hresult₂, hlen, State.setInputs_opmem, ← hcs]

end Sys2Proof.Machine

namespace Sys2Proof.Machine

/-! ## The encoding of command words

Decode accepts a word exactly when its RSVD is 0 and its OPC is that of a command (R83, R84), and a word is its two fields. -/

theorem CommandWord.toWord_ofWord (w : Word) : (CommandWord.ofWord w).toWord = w := by
  unfold CommandWord.toWord CommandWord.ofWord
  exact (BitVec.extractLsb'_append_extractLsb'_eq_extractLsb' rfl).trans BitVec.extractLsb'_eq_self

/-- The OPC values that name a command are those of R81. -/
theorem eq_opc_of_opcCommand {opc : BitVec 4} {i : Instr} (h : opcCommand opc = some i) : opc = i.opc := by
  unfold opcCommand at h
  split at h <;> cases h <;> exact BitVec.eq_of_toNat_eq ‹_›

/-- A word that decodes has RSVD 0 and an assigned OPC (R83, R84). -/
theorem ofWord_of_decode {w : Word} {i : Instr} (h : decode w = .ok i) : CommandWord.ofWord w = ⟨0, i.opc⟩ := by
  unfold decode at h
  simp only at h
  split at h
  · rename_i hclear
    have hrsvd : (CommandWord.ofWord w).rsvd = 0 := beq_iff_eq.1 hclear
    split at h
    · rename_i j hj
      cases h
      rw [← hrsvd, ← eq_opc_of_opcCommand hj]
    · cases h
  · cases h

/-- A command has one word only (R80, R81). -/
theorem decode_eq_ok_iff {w : Word} {i : Instr} : decode w = .ok i ↔ w = encode i := by
  constructor
  · intro h
    rw [encode, ← ofWord_of_decode h, CommandWord.toWord_ofWord]
  · rintro rfl
    exact decode_encode i

/-- Every row of the opcode table compares the whole word with its command's encoding. -/
theorem row_of_mem_opcodeTable : ∀ r ∈ opcodeTable, r.mask = BitVec.allOnes 32 ∧ r.pattern = encode r.instr := by
  decide

/-- A word matches a command's row of the opcode table exactly when it is the command's encoding. -/
theorem matches_row_iff {w : Word} {i : Instr} :
    (∃ r ∈ opcodeTable, r.instr = i ∧ w &&& r.mask = r.pattern) ↔ w = encode i := by
  constructor
  · rintro ⟨r, hr, rfl, hw⟩
    obtain ⟨hmask, hpattern⟩ := row_of_mem_opcodeTable r hr
    rwa [hmask, hpattern, BitVec.and_allOnes] at hw
  · rintro rfl
    obtain ⟨-, hrow, -⟩ := encoding_statement i
    exact ⟨_, hrow, rfl, BitVec.and_allOnes⟩

/-- Settles O3: both the encoding and the table's row single out the one word that decodes to the command. -/
theorem decodeIsTheOpcodeTable : Obligations.DecodeIsTheOpcodeTable :=
  fun _ _ => ⟨decode_eq_ok_iff, decode_eq_ok_iff.trans matches_row_iff.symm⟩

/-- Settles O1: the first eight words are the encodings; each of the others has an unassigned OPC or a reserved bit set. -/
theorem specWordsDecode : Obligations.SpecWordsDecode :=
  ⟨decode_encode .reduce, decode_encode .fmul, decode_encode .fadd, decode_encode .eval, decode_encode .begin,
    decode_encode .fold, decode_encode .curres, decode_encode .gen, by decide, by decide, by decide, by decide,
    by decide, by decide⟩

theorem encode_toNat_bounds (i : Instr) : 1 ≤ (encode i).toNat ∧ (encode i).toNat ≤ 8 := by
  cases i <;> decide

theorem exists_encode_of_bounds {w : Word} (h : 1 ≤ w.toNat ∧ w.toNat ≤ 8) : ∃ i, w = encode i := by
  have hw : w.toNat = 1 ∨ w.toNat = 2 ∨ w.toNat = 3 ∨ w.toNat = 4 ∨ w.toNat = 5 ∨ w.toNat = 6 ∨ w.toNat = 7 ∨
      w.toNat = 8 := by
    omega
  rcases hw with hw | hw | hw | hw | hw | hw | hw | hw
  · exact ⟨.reduce, BitVec.eq_of_toNat_eq hw⟩
  · exact ⟨.fmul, BitVec.eq_of_toNat_eq hw⟩
  · exact ⟨.fadd, BitVec.eq_of_toNat_eq hw⟩
  · exact ⟨.eval, BitVec.eq_of_toNat_eq hw⟩
  · exact ⟨.begin, BitVec.eq_of_toNat_eq hw⟩
  · exact ⟨.fold, BitVec.eq_of_toNat_eq hw⟩
  · exact ⟨.curres, BitVec.eq_of_toNat_eq hw⟩
  · exact ⟨.gen, BitVec.eq_of_toNat_eq hw⟩

/-- Exactly the words 1 to 8 are legal (R84). -/
theorem exists_decode_iff (w : Word) : (∃ i, decode w = .ok i) ↔ 1 ≤ w.toNat ∧ w.toNat ≤ 8 := by
  constructor
  · rintro ⟨i, hi⟩
    obtain rfl := decode_eq_ok_iff.1 hi
    exact encode_toNat_bounds i
  · intro h
    exact (exists_encode_of_bounds h).imp fun _ => decode_eq_ok_iff.2

/-! ## Issue of a command -/

theorem State.writeCmd_of_idle {s : State} (h : s.busy = false) (w : Word) : s.writeCmd w = s.issue w :=
  if_neg (by simp [h])

theorem State.writeCmd_of_busy {s : State} (h : s.busy = true) (w : Word) : s.writeCmd w = s.setOvr :=
  if_pos h

/-- A write to CMD is one step (R40). -/
theorem step_writeCmd {s : State} {w : Word} {rest : List Input} (hp : s.params.WellFormed)
    (hin : s.inputs = .access ⟨s.params.base + 0x00C, 32, .write w⟩ :: rest) :
    step s = .next (((s.setInputs rest).writeCmd w).setReply .accepted) :=
  step_reg .cmd hp hin

/-- Settles O33: the write of an idle machine's CMD is the issue. -/
theorem cmdWriteIssuesWhenIdle : Obligations.CmdWriteIssuesWhenIdle := by
  intro s w rest hp hidle hin
  rw [step_writeCmd hp hin, State.writeCmd_of_idle (s := s.setInputs rest) hidle]
  rfl

/-- Settles O34: the write of a busy machine's CMD only sets OVR. -/
theorem cmdWriteIsDroppedWhileBusy : Obligations.CmdWriteIsDroppedWhileBusy := by
  intro s w rest hp hbusy hin
  rw [step_writeCmd hp hin, State.writeCmd_of_busy (s := s.setInputs rest) hbusy]
  rfl

/-! ## The Engine's slot -/

theorem step_of_quiet {s : State} (h : s.inputs = []) : step s = engineSlot s := by
  simp only [step, h]

theorem step_of_engine {s : State} {rest : List Input} (h : s.inputs = .engine :: rest) :
    step s = engineSlot (s.setInputs rest) := by
  simp only [step, h]

/-- A step whose slot is the Engine's is that slot, past the input (log 1). -/
theorem step_of_engineNext {s : State} (h : EngineNext s) : step s = engineSlot (s.setInputs s.inputs.tail) := by
  obtain hnil | ⟨rest, hrest⟩ := h
  · have hs : s.setInputs s.inputs.tail = s := by
      rw [hnil, List.tail_nil, ← hnil]
      rfl
    rw [step_of_quiet hnil, hs]
  · rw [step_of_engine hrest, hrest, List.tail_cons]

/-- An idle Engine does nothing (R188). -/
theorem engineSlot_of_idle {s : State} (hp : s.pending = none) : engineSlot s = .next s := by
  simp only [engineSlot, hp]

/-- An illegal command word fails with IllegalCommand (R92, R174). -/
theorem engineSlot_of_illegal {s : State} {p : Pending} (hp : s.pending = some p) (hd : ∀ i, decode p.cmd ≠ .ok i) :
    engineSlot s = .next (s.fail .illegalCommand) := by
  cases hr : decode p.cmd with
  | ok i => exact absurd hr (hd i)
  | error r => simp only [engineSlot, hp, hr]

theorem step_of_illegal {s : State} {p : Pending} {rest : List Input} (hp : s.pending = some p)
    (hd : ∀ i, decode p.cmd ≠ .ok i) (hin : s.inputs = .engine :: rest) :
    step s = .next ((s.setInputs rest).fail .illegalCommand) := by
  rw [step_of_engine hin, engineSlot_of_illegal (s := s.setInputs rest) hp hd]

/-- Settles O5: the step is the Engine's slot, and the slot goes by what is pending. -/
theorem stepRunsThePendingCommand : Obligations.StepRunsThePendingCommand := by
  intro s rest
  refine ⟨fun p i hp hd => ⟨fun hin => ?_, fun hin => ?_⟩, fun p r hp hd => ?_, fun hp => ⟨fun hin => ?_, fun hin => ?_⟩⟩
  · rw [step_of_quiet hin, engineSlot_of_decode hp hd]
  · rw [step_of_engine hin, engineSlot_of_decode (s := s.setInputs rest) hp hd]
  · have hillegal : ∀ i, decode p.cmd ≠ .ok i := by simp [hd]
    refine ⟨fun hin => ?_, fun hin => ?_⟩
    · rw [step_of_quiet hin, engineSlot_of_illegal hp hillegal]
    · exact step_of_illegal hp hillegal hin
  · rw [step_of_quiet hin, engineSlot_of_idle hp]
  · rw [step_of_engine hin, engineSlot_of_idle (s := s.setInputs rest) hp]

theorem core_run_two {s t u : State} (h : step s = .next t) (h' : step t = .next u) : core.run 2 s = .next u :=
  (core_run_succ h 1).trans (core_run_succ h' 0)

/-- Settles O4: only the encodings are legal; any other word is issued by its write, and the next slot fails it. -/
theorem illegalWordsCompleteWithIllegalCommand : Obligations.IllegalWordsCompleteWithIllegalCommand := by
  refine ⟨exists_decode_iff, fun s w rest hp hidle hw hin => ?_⟩
  have hissue := cmdWriteIssuesWhenIdle s w (.engine :: rest) hp hidle hin
  have hillegal : ∀ i, decode w ≠ .ok i := fun i hi => hw ((exists_decode_iff w).1 ⟨i, hi⟩)
  exact ⟨hissue, core_run_two hissue (step_of_illegal rfl hillegal rfl)⟩

/-! ## Completion with and without an error -/

theorem ErrorCode.code_ne_zero (e : ErrorCode) : e.code ≠ 0 := by
  cases e <;> decide

section
variable {s t : State} {p : Pending} {i : Instr}

/-- A command that is over with a nonzero ERRCODE failed (R94, R95). -/
theorem Effect.failed_of_errcode_ne (he : Effect s p i t) (hp : s.pending = some p) (ht : t.pending = none)
    (hne : t.errcode ≠ 0) : ∃ e, t = s.fail e := by
  cases he with
  | failed _ e _ => exact ⟨e, rfl⟩
  | result | began | folded | shares => exact absurd rfl hne
  | waits => cases hp.symm.trans ht

/-- A command that is over with ERRCODE 0 has cleared BUSY and left ERR (R94). -/
theorem Effect.busy_err_of_errcode_eq (he : Effect s p i t) (hp : s.pending = some p) (ht : t.pending = none)
    (hzero : t.errcode = 0) : t.busy = false ∧ t.err = s.err := by
  cases he with
  | failed _ e _ => exact absurd hzero e.code_ne_zero
  | result | began | folded | shares => exact ⟨rfl, rfl⟩
  | waits => cases hp.symm.trans ht

/-- A command still pending after its slot is a GEN that has passed its checks and lacks words (R153, R158). -/
theorem Effect.gen_waits_of_pending (he : Effect s p i t) (ht : t.pending ≠ none) :
    i = .gen ∧ genCheck s.params.nOpmem p.genOps = none ∧ genRun p.genOps s.opmem s.drawn = none := by
  cases he with
  | failed | result | began | folded | shares => exact absurd rfl ht
  | waits hc hr => exact ⟨rfl, hc, hr⟩

end

/-- Settles O20: the slot is a failed completion, of the decoded command or of the illegal word. -/
theorem failedCommandChangesOnlyStatus : Obligations.FailedCommandChangesOnlyStatus := by
  intro s t p hp hnext h ht hne
  have hfail : ∃ e, t = (s.setInputs s.inputs.tail).fail e := by
    obtain ⟨t', ht', hcases⟩ := engineSlot_cases (s.setInputs s.inputs.tail)
    cases (step_of_engineNext hnext ▸ h).symm.trans ht'
    obtain ⟨hidle, -⟩ | ⟨q, hq, ⟨i, -, -, he⟩ | ⟨-, hillegal⟩⟩ := hcases
    · cases hp.symm.trans hidle
    · exact he.failed_of_errcode_ne hq ht hne
    · exact ⟨_, hillegal⟩
  obtain ⟨e, rfl⟩ := hfail
  rfl

/-- Settles O21: a completion sets DONE, a command's frame holds OVR, and a success leaves ERR. -/
theorem successfulCommandKeepsErrAndOvr : Obligations.SuccessfulCommandKeepsErrAndOvr := by
  intro i s t p hp h ht hzero
  obtain ⟨t', ht', he⟩ := exec_effect hp i
  cases h.symm.trans ht'
  obtain ⟨hbusy, herr⟩ := he.busy_err_of_errcode_eq hp ht hzero
  exact ⟨he.done_of_completed hp ht, hbusy, herr, he.frame.ovr⟩

/-! ## The samples a generation needs -/

/-- One participant takes `degree + 1` samples, or waits for want of them (R154, R158). -/
theorem genParticipant_needs (g : GenOps) (i : Nat) (m : Memory) (ws : List Word) :
    ((g.samples ws).length < g.degree.toNat + 1 → genParticipant g i m ws = none) ∧
    (g.degree.toNat + 1 ≤ (g.samples ws).length →
      ∃ m' ws', genParticipant g i m ws = some (m', ws') ∧ Uses g ws ws' (g.degree.toNat + 1)) := by
  obtain ⟨hlack, henough⟩ := draw_spec g g.degree.toNat g.scratch.base m ws
  by_cases hd : (g.samples ws).length < g.degree.toNat
  · exact ⟨fun _ => by simp only [genParticipant, hlack hd], fun h => by omega⟩
  · obtain ⟨m₁, ws₁, hdraw, hused, -, -⟩ := henough (not_lt.1 hd)
    have hleft : (g.samples ws₁).length = (g.samples ws).length - g.degree.toNat := by
      rw [hused.drop, List.length_drop]
    cases hx : sampleBounded g.fieldSize g.shift ws₁ with
    | none =>
      have hnone : (g.samples ws₁).length = 0 := by rw [sample_none g hx, List.length_nil]
      exact ⟨fun _ => by simp only [genParticipant, hdraw, hx], fun h => by omega⟩
    | some xr =>
      obtain ⟨x, ws₂⟩ := xr
      obtain ⟨-, hone⟩ := sample_some g hx
      have hle := hone.le
      simp only [genParticipant, hdraw, hx]
      exact ⟨fun h => by omega, fun _ => ⟨_, ws₂, rfl, hused.trans hone⟩⟩

/-- `n` participants take `n * (degree + 1)` samples, or wait for want of them. -/
theorem genLoop_needs (g : GenOps) (n : Nat) : ∀ (i : Nat) (m : Memory) (ws : List Word),
    ((g.samples ws).length < n * (g.degree.toNat + 1) → genLoop g n i m ws = none) ∧
    (n * (g.degree.toNat + 1) ≤ (g.samples ws).length →
      ∃ m' ws', genLoop g n i m ws = some (m', ws') ∧ Uses g ws ws' (n * (g.degree.toNat + 1))) := by
  induction n with
  | zero => exact fun i m ws => ⟨fun h => by omega, fun _ => ⟨m, ws, rfl, by simpa using Uses.zero g ws⟩⟩
  | succ n ih =>
    intro i m ws
    obtain ⟨hlack, henough⟩ := genParticipant_needs g i m ws
    rw [Nat.succ_mul]
    by_cases hd : (g.samples ws).length < g.degree.toNat + 1
    · exact ⟨fun _ => by simp only [genLoop, hlack hd], fun h => by omega⟩
    · obtain ⟨m₁, ws₁, hfirst, hused⟩ := henough (not_lt.1 hd)
      have hleft : (g.samples ws₁).length = (g.samples ws).length - (g.degree.toNat + 1) := by
        rw [hused.drop, List.length_drop]
      obtain ⟨hlack', henough'⟩ := ih (i + 1) m₁ ws₁
      simp only [genLoop, hfirst]
      refine ⟨fun h => hlack' (by omega), fun h => ?_⟩
      obtain ⟨m', ws', hrest, hused'⟩ := henough' (by omega)
      exact ⟨m', ws', hrest, Nat.add_comm _ _ ▸ hused.trans hused'⟩

/-- A generation waits exactly while the words drawn give too few samples (R158). -/
theorem genRun_eq_none_iff {g : GenOps} {m : Memory} {ws : List Word} :
    genRun g m ws = none ↔ (g.samples ws).length < g.samplesNeeded := by
  obtain ⟨hlack, henough⟩ := genLoop_needs g g.c.toNat 0 m ws
  refine ⟨fun hnone => ?_, hlack⟩
  by_contra hge
  obtain ⟨m', ws', hsome, -⟩ := henough (not_lt.1 hge)
  cases hnone.symm.trans hsome

/-- Settles O52: of a command's effects only a GEN's wait leaves it pending. -/
theorem engineSlotCompletesAllButGen : Obligations.EngineSlotCompletesAllButGen := by
  intro s t p hp hnext h
  obtain ⟨t', ht', hcases⟩ := engineSlot_cases (s.setInputs s.inputs.tail)
  cases (step_of_engineNext hnext ▸ h).symm.trans ht'
  obtain ⟨hidle, -⟩ | ⟨q, hq, hslot⟩ := hcases
  · cases hp.symm.trans hidle
  cases hp.symm.trans hq
  obtain ⟨i, hi, -, he⟩ | ⟨-, rfl⟩ := hslot
  · refine ⟨fun hne => ?_, fun hwait => ?_⟩
    · obtain ⟨hbusy, hpending⟩ := he.idle (by rintro rfl; exact hne hi)
      exact ⟨hbusy, hpending, he.done_of_completed hq hpending⟩
    · obtain ⟨rfl, hcheck, hrun⟩ := he.gen_waits_of_pending hwait
      exact ⟨hi, legal_check.2 hcheck, genRun_eq_none_iff.1 hrun⟩
  · exact ⟨fun _ => ⟨rfl, rfl, rfl⟩, fun hwait => absurd rfl hwait⟩

/-! ## What a reset abandons -/

/-- A soft reset is one step (R23). -/
theorem step_softReset {s : State} {x : Input} {rest : List Input} (hp : s.params.WellFormed) (hx : SoftResets s x)
    (hin : s.inputs = x :: rest) : step s = .next ((s.setInputs rest).softReset.setReply .accepted) := by
  obtain ⟨w, hw, rfl⟩ := hx
  obtain ⟨hsoft, -⟩ := ctrlFieldsAndSoftResetBit.2 s w rest hp hin
  exact (hsoft hw).1

/-- With no GEN running a soft reset keeps OPMEM (R202). -/
theorem State.softResetOpmem_of_noGen {s : State} (h : s.runningGen = none) : s.softResetOpmem = s.opmem := by
  simp only [State.softResetOpmem, h]

section
variable {s : State} {g : GenOps} (h : s.runningGen = some g) {k : Nat}
include h

/-- A soft reset keeps the words outside the share and scratch regions of the GEN it abandons (R203). -/
theorem State.contentAt_softResetOpmem_of_outside (hshare : ¬ g.shares.Holds k) (hscratch : ¬ g.scratch.Holds k) :
    s.softResetOpmem.contentAt k = s.opmem.contentAt k := by
  simp [State.softResetOpmem, h, Memory.contentAt_release, Region.mem_existing, hshare, hscratch]

/-- A soft reset releases the share and scratch words of the GEN it abandons (R203). -/
theorem State.contentAt_softResetOpmem_of_region (hk : k < s.params.nOpmem)
    (hregion : g.shares.Holds k ∨ g.scratch.Holds k) : s.softResetOpmem.contentAt k = .free s.freeTag := by
  simp [State.softResetOpmem, h, Memory.contentAt_release, Region.mem_existing, hk, hregion]

end

/-- Settles O42: the step is the soft reset, whose registers are at their reset values and whose OPMEM is `softResetOpmem`. -/
theorem softResetKeepsOpmem : Obligations.SoftResetKeepsOpmem := by
  intro s x rest hp hx hin
  refine ⟨_, step_softReset hp hx hin, (s.setInputs rest).atResetValues_softReset, rfl, rfl, ?_, fun g hg k => ?_⟩
  · exact State.softResetOpmem_of_noGen (s := s.setInputs rest)
  · exact ⟨State.contentAt_softResetOpmem_of_outside (s := s.setInputs rest) hg,
      State.contentAt_softResetOpmem_of_region (s := s.setInputs rest) hg⟩

/-- A reset gives the next exchange a new number (R204). -/
theorem exchange_of_reset {s t : State} {x : Input} {rest : List Input} (hp : s.params.WellFormed)
    (hin : s.inputs = x :: rest) (hx : x = .hardReset ∨ SoftResets s x) (h : step s = .next t) :
    t.exchange = s.exchange + 1 := by
  obtain rfl | hsoft := hx
  · cases (step_of_outside hin (by simp)).symm.trans h
    rfl
  · cases (step_softReset hp hsoft hin).symm.trans h
    rfl

/-- A word offered for another exchange than the one in progress is used by no command (R204). -/
theorem State.takeSample_of_ne {s : State} {n : Nat} (h : n ≠ s.exchange) (w : Word) : s.takeSample n w = s :=
  if_neg (by simp [h])

/-- Settles O56: the reset raises the number of the exchange and no later step lowers it. -/
theorem abandonedExchangeIsNeverUsed : Obligations.AbandonedExchangeIsNeverUsed := by
  intro s t u x rest k hp hin hx hstep hrun n w later hn hin'
  have hreset := exchange_of_reset hp hin hx hstep
  have hlater := run_exchange_le hrun
  have hne : n ≠ (u.setInputs later).exchange := by
    rw [State.setInputs_exchange]
    omega
  exact (step_of_outside hin' (by simp)).trans (congrArg _ (State.takeSample_of_ne hne w))

end Sys2Proof.Machine

namespace Sys2Proof.Machine

/-! ## The Modular Reducer -/

/-! ### The long division with a 33-bit working remainder (R102) -/

/-- The shift of a remainder that fits a word loses no bit of 33 (R102, C1). -/
theorem toNat_shiftLeft_one_or_ofBool {r : BitVec 33} (hr : r.toNat < 2 ^ 32) (b : Bool) :
    ((r <<< 1) ||| (BitVec.ofBool b).setWidth 33).toNat = 2 * r.toNat + b.toNat := by
  have hshift : (r.toNat <<< 1) % 2 ^ 33 = r.toNat <<< 1 := Nat.mod_eq_of_lt (by omega)
  have hbit : b.toNat % 2 ^ 33 = b.toNat := Nat.mod_eq_of_lt (b.toNat_lt.trans (by decide))
  rw [BitVec.toNat_or, BitVec.toNat_shiftLeft, BitVec.toNat_setWidth, BitVec.toNat_ofBool, hshift, hbit,
    ← Nat.shiftLeft_add_eq_or_of_lt b.toNat_lt, Nat.shiftLeft_eq, pow_one, mul_comm]

/-- A number below twice the divisor has its remainder after at most one subtraction. -/
theorem toNat_ite_sub_eq_mod {t d : BitVec 33} (ht : t.toNat < 2 * d.toNat) :
    (if d ≤ t then t - d else t).toNat = t.toNat % d.toNat := by
  split
  case isTrue hle =>
    have hle' : d.toNat ≤ t.toNat := BitVec.le_def.1 hle
    rw [BitVec.toNat_sub_of_le hle, Nat.mod_eq_sub_mod hle', Nat.mod_eq_of_lt (by omega)]
  case isFalse hlt =>
    exact (Nat.mod_eq_of_lt (BitVec.not_le.1 hlt)).symm

theorem reduceStep_toNat {d : Word} {r : BitVec 33} (hr : r.toNat < d.toNat) (b : Bool) :
    (reduceStep d r b).toNat = (2 * r.toNat + b.toNat) % d.toNat := by
  have ht := toNat_shiftLeft_one_or_ofBool (hr.trans d.isLt) b
  have hd : (d.setWidth 33).toNat = d.toNat := BitVec.toNat_setWidth_of_le (by decide)
  have hb := b.toNat_lt
  exact (toNat_ite_sub_eq_mod (by omega)).trans (by rw [ht, hd])

/-- The working remainder after the first `n` bits of `low`, from bit 31 down (R102). -/
def workingRemainder (high low d : Word) (n : Nat) : BitVec 33 :=
  (List.range n).foldl (fun r k => reduceStep d r (low.getLsbD (31 - k))) ((high % d).setWidth 33)

theorem workingRemainder_zero (high low d : Word) : workingRemainder high low d 0 = (high % d).setWidth 33 := rfl

theorem workingRemainder_succ (high low d : Word) (n : Nat) :
    workingRemainder high low d (n + 1) =
      reduceStep d (workingRemainder high low d n) (low.getLsbD (31 - n)) := by
  rw [workingRemainder, List.range_succ, List.foldl_concat]
  rfl

theorem reduceLD_eq_workingRemainder (high low d : Word) :
    reduceLD high low d = (workingRemainder high low d 32).setWidth 32 := rfl

/-- The bits of a word from bit `i` up are those above it, and bit `i`. -/
theorem toNat_div_two_pow (w : Word) (i : Nat) :
    w.toNat / 2 ^ i = 2 * (w.toNat / 2 ^ (i + 1)) + (w.getLsbD i).toNat := by
  rw [BitVec.getLsbD, Nat.toNat_testBit, pow_succ, ← Nat.div_div_eq_div_mul, Nat.div_add_mod]

/-- The loop invariant of R102: the remainder of the dividend's bits taken so far. -/
theorem workingRemainder_toNat {d : Word} (h : d ≠ 0) (high low : Word) {n : Nat} (hn : n ≤ 32) :
    (workingRemainder high low d n).toNat = (high.toNat * 2 ^ n + low.toNat / 2 ^ (32 - n)) % d.toNat := by
  induction n with
  | zero =>
    rw [workingRemainder_zero, BitVec.toNat_setWidth_of_le (by decide), BitVec.toNat_umod, Nat.sub_zero,
      Nat.div_eq_of_lt low.isLt, pow_zero, mul_one, add_zero]
  | succ n ih =>
    specialize ih (by omega)
    have hlt : (workingRemainder high low d n).toNat < d.toNat := ih ▸ Nat.mod_lt _ (Word.toNat_pos h)
    have hlast : 32 - (n + 1) = 31 - n := by omega
    have habove : 31 - n + 1 = 32 - n := by omega
    rw [workingRemainder_succ, reduceStep_toNat hlt, ih, hlast, toNat_div_two_pow low (31 - n), habove,
      Nat.add_mod, Nat.mul_mod_mod, ← Nat.add_mod]
    congr 1
    ring

theorem reduceLD_toNat {d : Word} (h : d ≠ 0) (high low : Word) :
    (reduceLD high low d).toNat = (high.toNat * 2 ^ 32 + low.toNat) % d.toNat := by
  have hr := workingRemainder_toNat h high low le_rfl
  have hlt : (workingRemainder high low d 32).toNat < 2 ^ 32 :=
    (hr ▸ Nat.mod_lt _ (Word.toNat_pos h)).trans d.isLt
  rw [reduceLD_eq_workingRemainder, BitVec.toNat_setWidth, Nat.mod_eq_of_lt hlt, hr, Nat.sub_self, pow_zero, Nat.div_one]

/-- Settles O44: both functions have the exact remainder as their value. -/
theorem longDivisionIsTheExactRemainder : Obligations.LongDivisionIsTheExactRemainder := by
  intro high low d h
  have hld := reduceLD_toNat h high low
  exact ⟨BitVec.eq_of_toNat_eq (hld.trans (reduce_toNat h high low).symm), hld⟩

/-! ### The range of the remainder (R104) -/

theorem reduce_lt {d : Word} (h : d ≠ 0) (high low : Word) : (reduce high low d).toNat < d.toNat := by
  rw [reduce_toNat h]
  exact Nat.mod_lt _ (Word.toNat_pos h)

theorem reduce_one (high low : Word) : reduce high low 1 = 0 :=
  BitVec.eq_of_toNat_eq (Nat.lt_one_iff.1 (reduce_lt (d := 1) (by decide) high low))

/-- A dividend below the divisor is its own remainder. -/
theorem reduce_zero_of_lt {low d : Word} (h : d ≠ 0) (hlt : low.toNat < d.toNat) : reduce 0 low d = low := by
  refine BitVec.eq_of_toNat_eq ((reduce_toNat h 0 low).trans ?_)
  have hdividend : (0 : Word).toNat * 2 ^ 32 + low.toNat = low.toNat := by simp
  rw [hdividend, Nat.mod_eq_of_lt hlt]

/-- Settles O45: the remainder is below its divisor, which is a word. -/
theorem reduceRange : Obligations.ReduceRange := by
  intro high low d h
  have hlt := reduce_lt h high low
  have hd := d.isLt
  refine ⟨hlt, by omega, ?_, ?_⟩
  · rintro rfl
    exact reduce_one high low
  · rintro rfl hlow
    exact reduce_zero_of_lt h hlow

/-! ### REDUCE (R100) -/

theorem exec_reduce {s : State} {p : Pending} (hp : s.pending = some p) (hd : p.args.arg2 ≠ 0) :
    exec .reduce s = .next (s.setResult (reduce p.args.arg0 p.args.arg1 p.args.arg2)).complete :=
  (State.withCommand_some hp _).trans (congrArg _ (if_neg hd))

/-- Settles O7: the value that completes is the remainder of the operands in the snapshot. -/
theorem reduceGivesTheExactRemainder : Obligations.ReduceGivesTheExactRemainder :=
  fun _ _ hp hd => ⟨_, reduce_toNat hd _ _, exec_reduce hp hd⟩

end Sys2Proof.Machine

namespace Sys2Proof.Machine

/-! ## Field arithmetic -/

/-! ### The laws of FMul and FAdd (R124)

Commutativity is that of the product and of the sum inside the bit vectors, so it needs no modulus. The other laws are those of
the remainder of natural numbers, carried over by `fmul_toNat` and `fadd_toNat`. -/

theorem fmul_comm (a b m : Word) : fmul a b m = fmul b a m := by
  rw [fmul, BitVec.mul_comm, fmul]

theorem fadd_comm (a b m : Word) : fadd a b m = fadd b a m := by
  rw [fadd, BitVec.add_comm, fadd]

section
variable {m : Word} (hm : m ≠ 0)
include hm

theorem fmul_lt (a b : Word) : (fmul a b m).toNat < m.toNat := by
  rw [fmul_toNat hm]
  exact Nat.mod_lt _ (Word.toNat_pos hm)

theorem fadd_lt (a b : Word) : (fadd a b m).toNat < m.toNat := by
  rw [fadd_toNat hm]
  exact Nat.mod_lt _ (Word.toNat_pos hm)

theorem fmul_one_toNat (a : Word) : (fmul a 1 m).toNat = a.toNat % m.toNat := by
  have hone : (1 : Word).toNat = 1 := rfl
  rw [fmul_toNat hm, hone, mul_one]

theorem fadd_zero_toNat (a : Word) : (fadd a 0 m).toNat = a.toNat % m.toNat := by
  have hzero : (0 : Word).toNat = 0 := rfl
  rw [fadd_toNat hm, hzero, add_zero]

theorem fmul_umod_left (a b : Word) : fmul (a % m) b m = fmul a b m := by
  apply BitVec.eq_of_toNat_eq
  rw [fmul_toNat hm, fmul_toNat hm, BitVec.toNat_umod, Nat.mod_mul_mod]

theorem fadd_umod_left (a b : Word) : fadd (a % m) b m = fadd a b m := by
  apply BitVec.eq_of_toNat_eq
  rw [fadd_toNat hm, fadd_toNat hm, BitVec.toNat_umod, Nat.mod_add_mod]

end

/-- Settles O46: each law of R124 is one of the lemmas above. -/
theorem fieldLaws : Obligations.FieldLaws :=
  fun a b m hm => ⟨fmul_lt hm a b, fadd_lt hm a b, fadd_comm a b m, fmul_comm a b m, fadd_zero_toNat hm a,
    fmul_one_toNat hm a, fmul_umod_left hm a b, fadd_umod_left hm a b⟩

/-! ### FMUL (R110) and FADD (R120) -/

theorem exec_fadd {s : State} {p : Pending} (hp : s.pending = some p) (hm : p.args.arg2 ≠ 0) :
    exec .fadd s = .next (s.setResult (fadd p.args.arg0 p.args.arg1 p.args.arg2)).complete :=
  (State.withCommand_some hp _).trans (congrArg _ (if_neg hm))

/-- Settles O8: the value that completes is the product of the operands in the snapshot, which need not be reduced (R113). -/
theorem fmulGivesTheProduct : Obligations.FmulGivesTheProduct :=
  fun _ _ hp hm => ⟨_, fmul_toNat hm _ _, exec_fmul hp hm⟩

/-- Settles O9: the value that completes is the sum of the operands in the snapshot, which need not be reduced (R113). -/
theorem faddGivesTheSum : Obligations.FaddGivesTheSum :=
  fun _ _ hp hm => ⟨_, fadd_toNat hm _ _, exec_fadd hp hm⟩

end Sys2Proof.Machine

namespace Sys2Proof.Machine

/-! ## The Polynomial Evaluator

### Horner's closed form (R131)

Induction on the number of coefficients: the last one is folded last, and one more coefficient multiplies the sum so far by `x`. -/

/-- One more coefficient raises the degree of every earlier term by one. -/
theorem sum_range_succ_mul_pow (c : ℕ → ℕ) (x n : ℕ) :
    ∑ j ∈ Finset.range (n + 1), c j * x ^ (n + 1 - 1 - j) =
      (∑ j ∈ Finset.range n, c j * x ^ (n - 1 - j)) * x + c n := by
  have hterm : ∀ j ∈ Finset.range n, c j * x ^ (n - j) = c j * x ^ (n - 1 - j) * x := by
    intro j hj
    have hlt := Finset.mem_range.1 hj
    have hdegree : n - j = n - 1 - j + 1 := by omega
    rw [hdegree, pow_succ, mul_assoc]
  rw [Nat.add_sub_cancel, Finset.sum_range_succ, Finset.sum_congr rfl hterm, ← Finset.sum_mul, Nat.sub_self, pow_zero,
    mul_one]

/-- The accumulator enters a Horner step only by its remainder. -/
theorem hornerStep_toNat_of_mod {m r : Word} {v : ℕ} (h : m ≠ 0) (hr : r.toNat = v % m.toNat) (x c : Word) :
    (hornerStep r x c m).toNat = (v * x.toNat + c.toNat) % m.toNat := by
  rw [hornerStep_toNat h, hr, Nat.add_mod, Nat.mod_mul_mod, ← Nat.add_mod]

theorem horner_map_range_toNat {m : Word} (h : m ≠ 0) (c : ℕ → Word) (x : Word) (n : ℕ) :
    (horner ((List.range n).map c) x m).toNat =
      (∑ j ∈ Finset.range n, (c j).toNat * x.toNat ^ (n - 1 - j)) % m.toNat := by
  induction n with
  | zero => exact (Nat.zero_mod _).symm
  | succ n ih =>
    rw [List.range_succ, List.map_append, List.map_singleton, horner_concat, hornerStep_toNat_of_mod h ih,
      sum_range_succ_mul_pow (fun j => (c j).toNat)]

theorem map_getD_range (cs : List Word) : (List.range cs.length).map (fun j => cs.getD j 0) = cs :=
  List.ext_getElem (by simp) fun j _ hj => by simp [hj]

/-- Settles O47: a list of coefficients is the sequence of its entries. -/
theorem hornerClosedForm : Obligations.HornerClosedForm := by
  intro cs x m hm
  have hvalue := horner_map_range_toNat hm (fun j => cs.getD j 0) x cs.length
  rw [map_getD_range] at hvalue
  exact ⟨hvalue, hvalue ▸ Nat.mod_lt _ (Word.toNat_pos hm)⟩

/-! ### EVAL (R132) and its checks (R133) -/

section
variable {s : State} {p : Pending} (hp : s.pending = some p)
include hp

theorem failsWith_eval_of_zero (hm : p.args.arg3 = 0) : FailsWith .eval s .divisionByZero :=
  (State.withCommand_some hp _).trans (congrArg _ (if_pos hm))

theorem failsWith_eval_of_outOfRange (hm : p.args.arg3 ≠ 0) (hr : ¬ p.evalOps.region.inRange s.params.nOpmem) :
    FailsWith .eval s .addressRange :=
  (State.withCommand_some hp _).trans (congrArg _ ((if_neg hm).trans (if_neg hr)))

end

/-- The coefficient region is in range when it is empty or ends at or below N_OPMEM (R65). -/
theorem evalOps_inRange_iff {p : Pending} {n : ℕ} :
    p.evalOps.region.inRange n ↔ p.args.arg0 = 0 ∨ p.args.arg1.toNat + p.args.arg0.toNat ≤ n :=
  Region.inRange_iff.trans (or_congr_left (BitVec.toNat_inj (y := 0)))

/-- Settles O10: the words of the region are the coefficients of Horner's closed form. -/
theorem evalGivesThePolynomialValue : Obligations.EvalGivesThePolynomialValue :=
  fun _ _ hp hm hrange => ⟨_, horner_map_range_toNat hm _ _ _, exec_eval hp hm (evalOps_inRange_iff.2 hrange)⟩

/-- Settles O18: a zero modulus fails before the range is looked at; with another modulus a region out of range fails. -/
theorem evalChecksModulusThenRange : Obligations.EvalChecksModulusThenRange := by
  intro s p hp
  refine ⟨failsWith_eval_of_zero hp, fun hm hlen hend => failsWith_eval_of_outOfRange hp hm fun hr => ?_⟩
  obtain hempty | hle := evalOps_inRange_iff.1 hr
  · exact hlen hempty
  · exact absurd hend (not_lt.2 hle)

/-! ### BEGIN (R136), FOLD (R137) and CURRES (R138) -/

/-- Settles O11: the next state is the streaming context begun, then the completion. -/
theorem beginStartsAnEvaluation : Obligations.BeginStartsAnEvaluation :=
  fun _ _ hp hm => exec_begin hp hm

/-- Settles O12: the accumulator that FOLD writes is the value of one Horner step. -/
theorem foldAppliesOneHornerStep : Obligations.FoldAppliesOneHornerStep :=
  fun _ _ hp hst hm => ⟨_, hornerStep_toNat hm _ _ _, exec_fold hp hst hm⟩

/-- Settles O13: CURRES checks only that the streaming context is not UNINIT, so BEGUN and FOLDED answer alike. -/
theorem curresReturnsTheAccumulator : Obligations.CurresReturnsTheAccumulator :=
  fun s _ hp hst => ⟨s.sacc, rfl, exec_curres hp hst⟩

end Sys2Proof.Machine

namespace Sys2Proof.Machine

/-! ## The Share Generator

### The bounded sampler (R150) -/

theorem shifted_toNat (shift : BitVec 5) (w : Word) : (shifted shift w).toNat = w.toNat / 2 ^ shift.toNat := by
  rw [shifted, BitVec.toNat_ushiftRight, Nat.shiftRight_eq_div_pow]

theorem not_shifted_lt_iff {max w : Word} {shift : BitVec 5} :
    ¬ shifted shift w < max ↔ max.toNat ≤ w.toNat / 2 ^ shift.toNat := by
  rw [BitVec.lt_def, shifted_toNat, not_lt]

/-- The sampler skips rejected words and takes the next acceptable one: the converse of `sampleBounded_eq_some`. -/
theorem sampleBounded_append_cons {max w : Word} {shift : BitVec 5} {rejected rest : List Word}
    (hrej : ∀ u ∈ rejected, ¬ shifted shift u < max) (hw : shifted shift w < max) :
    sampleBounded max shift (rejected ++ w :: rest) = some (shifted shift w, rest) := by
  induction rejected with
  | nil => exact if_pos hw
  | cons u us ih =>
    obtain ⟨hu, hus⟩ := List.forall_mem_cons.1 hrej
    exact (if_neg hu).trans (ih hus)

/-- Settles O48: both lemmas on the sampler speak of shifted words, whose value is a quotient. -/
theorem sampleIsTheFirstWordBelowMax : Obligations.SampleIsTheFirstWordBelowMax := by
  refine fun max shift ws => ⟨fun v rest => ⟨fun h => ?_, ?_⟩, ?_⟩
  · obtain ⟨rejected, w, hws, hrej, rfl, hv⟩ := sampleBounded_eq_some h
    exact ⟨rejected, w, hws, shifted_toNat shift w, hv, fun u hu => not_shifted_lt_iff.1 (hrej u hu)⟩
  · rintro ⟨rejected, w, rfl, hv, hlt, hrej⟩
    obtain rfl : v = shifted shift w := BitVec.eq_of_toNat_eq (hv.trans (shifted_toNat shift w).symm)
    exact sampleBounded_append_cons (fun u hu => not_shifted_lt_iff.2 (hrej u hu)) hlt
  · simp only [sampleBounded_eq_none, not_shifted_lt_iff]

/-! ### A word of the Sampler (R151, R204) -/

/-- The request of the model is that of the claims. -/
theorem asksSampler_iff {s : State} : s.asksSampler = true ↔ AsksForSample s := by
  unfold State.asksSampler AsksForSample
  cases hg : s.runningGen with
  | none => simp
  | some g => simp [legal_check, genRun_eq_none_iff]

/-- Settles O43: the step is `takeSample`, which asks for both conditions. -/
theorem samplerWordsGoOnlyToAWaitingGen : Obligations.SamplerWordsGoOnlyToAWaitingGen := by
  intro s n w rest hin
  have hstep : step s = .next ((s.setInputs rest).takeSample n w) := step_of_outside hin (by simp)
  have hcond : ((s.setInputs rest).asksSampler && n == (s.setInputs rest).exchange) = true ↔
      AsksForSample s ∧ n = s.exchange := by
    rw [Bool.and_eq_true, beq_iff_eq]
    exact and_congr asksSampler_iff Iff.rfl
  exact ⟨fun hask hn => hstep.trans (congrArg _ (if_pos (hcond.2 ⟨hask, hn⟩))),
    fun hno => hstep.trans (congrArg _ (if_neg (mt hcond.1 hno)))⟩

/-! ### GEN's checks (R153) -/

section
variable {n : Nat} {g : GenOps}

theorem genCheck_of_fieldSize_eq_zero (hf : g.fieldSize = 0) : genCheck n g = some .divisionByZero := if_pos hf

variable (hf : g.fieldSize ≠ 0)
include hf

theorem genCheck_of_degree_eq_zero (hd : g.degree = 0) : genCheck n g = some .invalidArgument :=
  (if_neg hf).trans (if_pos hd)

variable (hd : g.degree ≠ 0)
include hd

theorem genCheck_of_outOfRange {r : Region} (hmem : r ∈ [g.identities, g.shares, g.scratch])
    (hr : ¬ r.inRange n = true) : genCheck n g = some .addressRange := by
  refine (if_neg hf).trans ((if_neg hd).trans (if_pos ?_))
  rw [Bool.not_eq_true', ← Bool.not_eq_true, Bool.and_eq_true, Bool.and_eq_true]
  rintro ⟨⟨hids, hshares⟩, hscratch⟩
  have hall : ∀ r ∈ [g.identities, g.shares, g.scratch], r.inRange n = true := by simp [hids, hshares, hscratch]
  exact hr (hall r hmem)

theorem genCheck_of_overlap (hr : ∀ r ∈ [g.identities, g.shares, g.scratch], r.inRange n = true)
    (ho : g.identities.overlaps g.shares = true ∨ g.identities.overlaps g.scratch = true ∨
      g.shares.overlaps g.scratch = true) : genCheck n g = some .invalidArgument := by
  simp only [List.forall_mem_cons, List.not_mem_nil, false_imp_iff, implies_true, and_true] at hr
  refine (if_neg hf).trans ((if_neg hd).trans ((if_neg ?_).trans (if_pos ?_)))
  · simp [hr]
  · simpa [or_assoc] using ho

end

section
variable {s : State} {p : Pending} (hp : s.pending = some p)
include hp

theorem failsWith_gen_of_check {e : ErrorCode} (hc : genCheck s.params.nOpmem p.genOps = some e) :
    FailsWith .gen s e :=
  (State.withCommand_some hp _).trans (by simp only [hc])

/-- A GEN whose words do not suffice waits (R158). -/
theorem exec_gen_of_run_none (hc : genCheck s.params.nOpmem p.genOps = none)
    (hr : genRun p.genOps s.opmem s.drawn = none) : exec .gen s = .next s :=
  (State.withCommand_some hp _).trans (by simp only [hc, hr])

/-- A GEN whose words suffice completes with the OPMEM of its generation, and counts the words taken (R156). -/
theorem exec_gen_of_run_some (hc : genCheck s.params.nOpmem p.genOps = none) {m : Memory} {rest : List Word}
    (hr : genRun p.genOps s.opmem s.drawn = some (m, rest)) :
    exec .gen s =
      .next ((s.setOpmem m).setDraws (BitVec.ofNat 32 (s.drawn.length - rest.length))).complete :=
  (State.withCommand_some hp _).trans (by simp only [hc, hr])

end

/-- Settles O19: each clause is the first check that applies. -/
theorem genChecksInOrder : Obligations.GenChecksInOrder := by
  rintro s p g hp rfl
  refine ⟨fun hf => ?_, fun hf hd => ?_, ?_, ?_⟩
  · exact failsWith_gen_of_check hp (genCheck_of_fieldSize_eq_zero hf)
  · exact failsWith_gen_of_check hp (genCheck_of_degree_eq_zero hf hd)
  · rintro hf hd ⟨r, hmem, hlen, hend⟩
    refine failsWith_gen_of_check hp (genCheck_of_outOfRange hf hd hmem ?_)
    rw [Region.inRange_iff]
    omega
  · rintro hf hd hr ⟨k, hk⟩
    refine failsWith_gen_of_check hp (genCheck_of_overlap hf hd (fun r hmem => Region.inRange_iff.2 (hr r hmem)) ?_)
    simp only [Region.overlaps_iff]
    exact hk.imp (fun h => ⟨k, h⟩) (Or.imp (fun h => ⟨k, h⟩) fun h => ⟨k, h⟩)

/-! ### Completion and waiting (R158) -/

/-- Words that hold the samples needed let the generation run. -/
theorem exists_genRun {g : GenOps} {m : Memory} {ws : List Word} (h : g.samplesNeeded ≤ (g.samples ws).length) :
    ∃ m' rest, genRun g m ws = some (m', rest) := by
  cases hr : genRun g m ws with
  | none => exact absurd (genRun_eq_none_iff.1 hr) (not_lt.2 h)
  | some r => exact ⟨r.1, r.2, rfl⟩

/-- Settles O14: the generation runs exactly when the samples suffice. -/
theorem genCompletesWhenTheSamplerSuffices : Obligations.GenCompletesWhenTheSamplerSuffices := by
  intro s p hp hlegal
  have hc := legal_check.1 hlegal
  refine ⟨fun henough => ?_, fun hlack => exec_gen_of_run_none hp hc (genRun_eq_none_iff.2 hlack)⟩
  obtain ⟨m, rest, hr⟩ := exists_genRun henough
  exact ⟨m, _, exec_gen_of_run_some hp hc hr⟩

/-! ### What a generation writes (R154, R155)

One participant first (`genParticipant_writes`), on the words that stand before it. Counted from the first word of the
generation, participant `i` takes the samples from `i * (degree + 1)` on (`coefficients_eq`, `point_eq`), which is how the claims
name them. `Generated` is the invariant of the loop over the participants. -/

theorem Region.holds_base_add {r : Region} {j : Nat} (h : j < r.len) : r.Holds (r.base + j) :=
  ⟨Nat.le_add_right _ _, Nat.add_lt_add_left h _⟩

/-- The first words of a list, by index. -/
theorem map_getD_range_eq_take {l : List Word} {n : Nat} (h : n ≤ l.length) :
    (List.range n).map (fun j => l.getD j 0) = l.take n :=
  List.ext_getElem (by simp [h]) fun j hj _ => by
    have hj : j < n := by simpa using hj
    simp [hj.trans_le h]

/-- The samples left are those after the samples taken. -/
theorem Uses.getD {g : GenOps} {ws rest : List Word} {k : Nat} (h : Uses g ws rest k) (j : Nat) :
    (g.samples rest).getD j 0 = (g.samples ws).getD (k + j) 0 := by
  rw [h.drop, List.getD_eq_getElem?_getD, List.getElem?_drop, List.getD_eq_getElem?_getD]

/-- What draws that succeed take, write and leave. -/
theorem draws_of_eq_some {g : GenOps} {n k : Nat} {m m' : Memory} {ws ws' : List Word}
    (h : drawCoefficients g n k m ws = some (m', ws')) :
    Uses g ws ws' n ∧ (∀ j < n, m'.read (k + j) = (g.samples ws).getD j 0) ∧
      ∀ j, ¬ (k ≤ j ∧ j < k + n) → m'.read j = m.read j := by
  obtain ⟨hlack, henough⟩ := draw_spec g n k m ws
  by_cases hn : n ≤ (g.samples ws).length
  · obtain ⟨m₁, ws₁, hsome, hdrawn⟩ := henough hn
    cases hsome.symm.trans h
    exact hdrawn
  · cases (hlack (not_le.1 hn)).symm.trans h

/-- Participant `i`'s identity in the place of its last coefficient (R154). -/
def GenOps.putIdentity (g : GenOps) (i : Nat) (m : Memory) : Memory :=
  m.write (g.scratch.base + g.degree.toNat - 1) (m.read (g.identities.base + i))

/-- What a participant's success is made of: the draws, the identity, the point and the share. -/
theorem genParticipant_eq_some {g : GenOps} {i : Nat} {m m' : Memory} {ws ws' : List Word}
    (h : genParticipant g i m ws = some (m', ws')) :
    ∃ m₁ ws₁ x, drawCoefficients g g.degree.toNat g.scratch.base m ws = some (m₁, ws₁) ∧
      sampleBounded g.fieldSize g.shift ws₁ = some (x, ws') ∧
      m' = (g.putIdentity i m₁).write (g.shares.base + i)
        (horner ((g.putIdentity i m₁).readRegion g.scratch) x g.fieldSize) := by
  unfold genParticipant at h
  split at h
  · cases h
  · rename_i m₁ ws₁ hdraw
    dsimp only at h
    split at h
    · cases h
    · rename_i x ws₂ hx
      cases h
      exact ⟨m₁, ws₁, x, hdraw, hx, rfl⟩

section
variable {g : GenOps} (hd : g.degree ≠ 0)
include hd

/-- Scratch after the draws and the identity: all draws but the last, then the identity. -/
theorem readRegion_putIdentity {i : Nat} {m : Memory} {l : List Word} (hl : g.degree.toNat ≤ l.length)
    (hread : ∀ j < g.degree.toNat, m.read (g.scratch.base + j) = l.getD j 0) :
    (g.putIdentity i m).readRegion g.scratch =
      l.take (g.degree.toNat - 1) ++ [m.read (g.identities.base + i)] := by
  obtain ⟨e, he⟩ : ∃ e, g.degree.toNat = e + 1 := Nat.exists_eq_succ_of_ne_zero (Word.toNat_pos hd).ne'
  have hput : g.putIdentity i m = m.write (g.scratch.base + e) (m.read (g.identities.base + i)) := by
    rw [GenOps.putIdentity, he, ← Nat.add_assoc, Nat.add_sub_cancel]
  have hlen : g.scratch.len = e + 1 := he
  rw [hput, he, Nat.add_sub_cancel, Memory.readRegion, hlen, List.range_succ, List.map_append, List.map_singleton,
    Memory.read_write_same, ← map_getD_range_eq_take (by omega)]
  congr 1
  refine List.map_congr_left fun j hj => ?_
  have hj := List.mem_range.1 hj
  rw [Memory.read_write_of_ne _ _ (by omega), hread j (by omega)]

theorem read_putIdentity_of_outside {i k : Nat} {m : Memory} (hk : ¬ g.scratch.Holds k) :
    (g.putIdentity i m).read k = m.read k := by
  have hpos := Word.toNat_pos hd
  have hlen : g.scratch.len = g.degree.toNat := rfl
  refine Memory.read_write_of_ne _ _ fun hlast => hk ⟨?_, ?_⟩ <;> omega

end

section
variable {n i : Nat} {g : GenOps} (hlegal : g.Legal n) (hi : i < g.c.toNat)
include hlegal hi

/-- A legal GEN's share words are no scratch words (R153). -/
theorem not_scratch_of_share : ¬ g.scratch.Holds (g.shares.base + i) := by
  obtain ⟨-, -, -, hdisjoint⟩ := hlegal
  obtain ⟨-, -, hsharesScratch⟩ := hdisjoint (g.shares.base + i)
  exact fun h => hsharesScratch ⟨Region.holds_base_add hi, h⟩

/-- A legal GEN's identities are no share and no scratch words (R153). -/
theorem outside_of_identity :
    ¬ g.shares.Holds (g.identities.base + i) ∧ ¬ g.scratch.Holds (g.identities.base + i) := by
  obtain ⟨-, -, -, hdisjoint⟩ := hlegal
  obtain ⟨hidsShares, hidsScratch, -⟩ := hdisjoint (g.identities.base + i)
  have hid : g.identities.Holds (g.identities.base + i) := Region.holds_base_add hi
  exact ⟨fun h => hidsShares ⟨hid, h⟩, fun h => hidsScratch ⟨hid, h⟩⟩

/-- One participant takes `degree + 1` samples, leaves its sequence in scratch, writes its value at the last sample as the share,
and leaves every other word (R154, R155). -/
theorem genParticipant_writes {m m' : Memory} {ws ws' : List Word} (h : genParticipant g i m ws = some (m', ws')) :
    Uses g ws ws' (g.degree.toNat + 1) ∧
    m'.readRegion g.scratch =
      (g.samples ws).take (g.degree.toNat - 1) ++ [m.read (g.identities.base + i)] ∧
    m'.read (g.shares.base + i) =
      horner (m'.readRegion g.scratch) ((g.samples ws).getD g.degree.toNat 0) g.fieldSize ∧
    ∀ k, k ≠ g.shares.base + i → ¬ g.scratch.Holds k → m'.read k = m.read k := by
  obtain ⟨m₁, ws₁, x, hdraw, hx, rfl⟩ := genParticipant_eq_some h
  obtain ⟨hused, hread, hframe⟩ := draws_of_eq_some hdraw
  obtain ⟨hnext, hone⟩ := sample_some g hx
  have ⟨_, hd, _⟩ := hlegal
  have hpoint : (g.samples ws).getD g.degree.toNat 0 = x := by
    rw [← Nat.add_zero g.degree.toNat, ← hused.getD, hnext, List.getD_cons_zero]
  have hscratch (v : Word) : ((g.putIdentity i m₁).write (g.shares.base + i) v).readRegion g.scratch =
      (g.putIdentity i m₁).readRegion g.scratch := by
    refine Memory.readRegion_congr fun k hk => Memory.read_write_of_ne _ _ ?_
    rintro rfl
    exact not_scratch_of_share hlegal hi hk
  refine ⟨hused.trans hone, ?_, ?_, fun k hshare hk => ?_⟩
  · rw [hscratch, readRegion_putIdentity hd hused.le hread, hframe _ (outside_of_identity hlegal hi).2]
  · rw [hscratch, hpoint, Memory.read_write_same]
  · rw [Memory.read_write_of_ne _ _ hshare, read_putIdentity_of_outside hd hk, hframe k hk]

end

section
variable {g : GenOps} {ws₀ ws : List Word} {i : Nat} (hused : Uses g ws₀ ws (i * (g.degree.toNat + 1)))
include hused

/-- Participant `i`'s sequence, on the words the earlier participants leave. -/
theorem coefficients_eq (m : Memory) :
    g.coefficients m (g.samples ws₀) i =
      (g.samples ws).take (g.degree.toNat - 1) ++ [m.read (g.identities.base + i)] := by
  rw [GenOps.coefficients, hused.drop]

/-- Participant `i`'s evaluation point, on the words the earlier participants leave. -/
theorem point_eq : g.point (g.samples ws₀) i = (g.samples ws).getD g.degree.toNat 0 :=
  (hused.getD _).symm

end

/-- What stands after the first `i` participants of the generation that began with the OPMEM `m₀` and the words `ws₀`. -/
structure Generated (g : GenOps) (m₀ : Memory) (ws₀ : List Word) (i : Nat) (m : Memory) (ws : List Word) : Prop where
  used : Uses g ws₀ ws (i * (g.degree.toNat + 1))
  shares : ∀ j < i, m.read (g.shares.base + j) =
    horner (g.coefficients m₀ (g.samples ws₀) j) (g.point (g.samples ws₀) j) g.fieldSize
  scratch : i ≠ 0 → m.readRegion g.scratch = g.coefficients m₀ (g.samples ws₀) (i - 1)
  frame : ∀ k, ¬ g.shares.Holds k → (i = 0 ∨ ¬ g.scratch.Holds k) → m.read k = m₀.read k

theorem Generated.zero (g : GenOps) (m : Memory) (ws : List Word) : Generated g m ws 0 m ws where
  used := (Nat.zero_mul _).symm ▸ Uses.zero g ws
  shares := fun _ hj => absurd hj (Nat.not_lt_zero _)
  scratch := fun h => absurd rfl h
  frame := fun _ _ _ => rfl

section
variable {n : Nat} {g : GenOps} (hlegal : g.Legal n) {m₀ : Memory} {ws₀ : List Word}
include hlegal

/-- One participant more. -/
theorem Generated.succ {i : Nat} {m m' : Memory} {ws ws' : List Word} (hgen : Generated g m₀ ws₀ i m ws)
    (hi : i < g.c.toNat) (h : genParticipant g i m ws = some (m', ws')) : Generated g m₀ ws₀ (i + 1) m' ws' := by
  obtain ⟨hused, hscratch, hshare, hframe⟩ := genParticipant_writes hlegal hi h
  obtain ⟨hidShare, hidScratch⟩ := outside_of_identity hlegal hi
  have hseq : m'.readRegion g.scratch = g.coefficients m₀ (g.samples ws₀) i := by
    rw [hscratch, coefficients_eq hgen.used, hgen.frame _ hidShare (.inr hidScratch)]
  refine ⟨Nat.succ_mul _ _ ▸ hgen.used.trans hused, fun j hj => ?_, fun _ => hseq, fun k hk hk' => ?_⟩
  · obtain hlt | rfl := Nat.lt_succ_iff_lt_or_eq.1 hj
    · rw [hframe _ (by omega) (not_scratch_of_share hlegal (hlt.trans hi)), hgen.shares j hlt]
    · rw [hshare, hseq, point_eq hgen.used]
  · have hscr : ¬ g.scratch.Holds k := hk'.resolve_left (Nat.succ_ne_zero i)
    have hne : k ≠ g.shares.base + i := by
      rintro rfl
      exact hk (Region.holds_base_add hi)
    rw [hframe k hne hscr, hgen.frame k hk (.inr hscr)]

/-- The remaining participants. -/
theorem Generated.loop {l : Nat} : ∀ {i : Nat} {m m' : Memory} {ws ws' : List Word}, Generated g m₀ ws₀ i m ws →
    i + l = g.c.toNat → genLoop g l i m ws = some (m', ws') → Generated g m₀ ws₀ g.c.toNat m' ws' := by
  induction l with
  | zero =>
    intro i m m' ws ws' hgen hi h
    cases h
    exact hi ▸ hgen
  | succ l ih =>
    intro i m m' ws ws' hgen hi h
    simp only [genLoop] at h
    split at h
    · cases h
    · rename_i m₁ ws₁ hfirst
      exact ih (hgen.succ hlegal (by omega) hfirst) (by omega) h

/-- What a generation that has run leaves. -/
theorem generated_of_genRun {m : Memory} {rest : List Word} (h : genRun g m₀ ws₀ = some (m, rest)) :
    Generated g m₀ ws₀ g.c.toNat m rest :=
  (Generated.zero g m₀ ws₀).loop hlegal (Nat.zero_add _) h

end

/-- Settles O15: the clauses on OPMEM are the loop's invariant after the last participant, and DRAWS counts the words it used. -/
theorem genSharesAreHornerOfTheDraws : Obligations.GenSharesAreHornerOfTheDraws := by
  rintro s p g hp rfl hlegal henough
  obtain ⟨m, rest, hr⟩ := exists_genRun henough
  have hgen := generated_of_genRun hlegal hr
  obtain ⟨used, hdrawn, hneeded, hleast⟩ := hgen.used
  have hc : p.genOps.c.toNat = 0 ↔ p.genOps.c = 0 := BitVec.toNat_inj (y := 0)
  have hcount : s.drawn.length - rest.length = used.length := by
    rw [hdrawn, List.length_append, Nat.add_sub_cancel]
  have htake : ∀ n' ≤ used.length, s.drawn.take n' = used.take n' := fun n' hn' => by
    rw [hdrawn, List.take_append_of_le_length hn']
  refine ⟨m, used.length, hcount ▸ exec_gen_of_run_some hp (legal_check.1 hlegal) hr, hgen.shares,
    fun hne => hgen.scratch (mt hc.1 hne), fun k hk hk' => hgen.frame k hk (hk'.imp_left hc.2), ?_, ?_, fun n' hn' => ?_⟩
  · rw [hdrawn, List.length_append]
    exact Nat.le_add_right _ _
  · rw [htake _ le_rfl, List.take_length]
    exact hneeded
  · rw [htake n' hn'.le]
    exact hleast n' hn'

end Sys2Proof.Machine

namespace Sys2Proof.Machine

/-! ## The exceptions that commands raise (R171, R172)

Reduce has no value for a zero divisor (R103): each command tests its own before anything else. FOLD tests SSTATE
first, and outside UNINIT the invariant holds SM nonzero (R43), so its test of SM never fails. -/

section
variable {s : State} {p : Pending} (hp : s.pending = some p)
include hp

theorem failsWith_reduce_of_zero (hd : p.args.arg2 = 0) : FailsWith .reduce s .divisionByZero :=
  (State.withCommand_some hp _).trans (congrArg _ (if_pos hd))

theorem failsWith_fmul_of_zero (hm : p.args.arg2 = 0) : FailsWith .fmul s .divisionByZero :=
  (State.withCommand_some hp _).trans (congrArg _ (if_pos hm))

theorem failsWith_fadd_of_zero (hm : p.args.arg2 = 0) : FailsWith .fadd s .divisionByZero :=
  (State.withCommand_some hp _).trans (congrArg _ (if_pos hm))

theorem failsWith_begin_of_zero (hm : p.args.arg1 = 0) : FailsWith .begin s .divisionByZero :=
  (State.withCommand_some hp _).trans (congrArg _ (if_pos hm))

theorem failsWith_fold_of_uninit (hst : s.sstate = .uninit) : FailsWith .fold s .notInitialized :=
  (State.withCommand_some hp _).trans (congrArg _ (if_pos hst))

theorem failsWith_curres_of_uninit (hst : s.sstate = .uninit) : FailsWith .curres s .notInitialized :=
  (State.withCommand_some hp _).trans (congrArg _ (if_pos hst))

/-- FOLD completes with NotInitialized in UNINIT and with no error elsewhere. -/
theorem errcode_ne_divisionByZero_of_fold {t : State} (hinv : s.Inv) (h : exec .fold s = .next t) :
    t.errcode ≠ ErrorCode.divisionByZero.code := by
  by_cases hst : s.sstate = .uninit
  · cases h.symm.trans (failsWith_fold_of_uninit hp hst)
    rw [State.fail_errcode]
    decide
  · obtain ⟨hm, -⟩ := hinv.stream hst
    cases h.symm.trans (exec_fold hp hst hm)
    rw [State.complete_errcode]
    decide

end

/-- A FOLD pending in a sound state: the hypotheses of the lemma above can be met outside UNINIT. -/
theorem inv_of_fold_issued_after_begin :
    ((State.reset.setStream 0 3 7 .begun).issue (encode .fold)).Inv :=
  (State.Inv.setStream resetStateIsSound (by decide) (by decide) (by decide) 3).issue _

/-- Settles O16: each command's test of its zero operand comes first, and FOLD's test of SM never fails in a sound state. -/
theorem zeroModulusFails : Obligations.ZeroModulusFails := by
  intro s p hp
  refine ⟨fun hm => ⟨?_, ?_, ?_⟩, failsWith_eval_of_zero hp, failsWith_begin_of_zero hp, fun hf => ?_,
    fun hinv t h => ?_⟩
  · exact failsWith_reduce_of_zero hp hm
  · exact failsWith_fmul_of_zero hp hm
  · exact failsWith_fadd_of_zero hp hm
  · exact failsWith_gen_of_check hp (genCheck_of_fieldSize_eq_zero hf)
  · exact errcode_ne_divisionByZero_of_fold hp hinv h

/-- Settles O17: FOLD and CURRES check the streaming state before anything else. -/
theorem uninitializedStreamFails : Obligations.UninitializedStreamFails :=
  fun _ _ hp hst => ⟨failsWith_fold_of_uninit hp hst, failsWith_curres_of_uninit hp hst⟩

end Sys2Proof.Machine
